-- ==== Sys2Proof/Word.lean ====
section
/-! DEFINITION. The word types of FCODEC (00_scope.md R7, R8): bytes of 8 bits and words of 16 bits. -/

namespace Sys2Proof

/-- A byte, 8 bits unsigned (R7). -/
abbrev Byte := BitVec 8

/-- A 16-bit unsigned word: the command word, the checksum, the voltage code (R7). -/
abbrev Word := BitVec 16

end Sys2Proof
end

