-- ==== Sys2Proof/Syntax.lean ====
section
/-! DEFINITION. The syntax of FCODEC: the instructions of the opcode table (30_encoding.md R61, R62, R66) and the moves
of the host (10_state.md R21; 60_exceptions.md R215). -/

namespace Sys2Proof

/-- The operations of spec/opcode_table.json, one constructor per row. An operand here is a field of the command word;
the operand fields of the request (R21) are in `Request`. -/
inductive Instr where
  | crc                          -- CRC, R114
  | crcapp                       -- CRCAPP, R115
  | fval                         -- FVAL, R116
  | bind (imm8 : BitVec 8)       -- BIND, R100: the device address IMM8
  | bsetv                        -- BSETV, R142
  | benout (enable : Bool)       -- BENOUT, R145: the enable flag E
  | brdv                         -- BRDV, R148
  | rval                         -- RVAL, R170
  | rerr                         -- RERR, R172
  | rparsev                      -- RPARSEV, R173
  | reservedA (rest : BitVec 12) -- RESERVED_A, R66: bits 15:4 may be anything
  | reservedB (rest : BitVec 12) -- RESERVED_B, R66
  | reservedC (rest : BitVec 12) -- RESERVED_C, R66
  | reservedD (rest : BitVec 12) -- RESERVED_D, R66
  | reservedE (rest : BitVec 12) -- RESERVED_E, R66
  | reservedF (rest : BitVec 12) -- RESERVED_F, R66
  deriving DecidableEq, Repr

/-- The operand fields of one request (R21). `IBUF_LEN` is the length of `ibuf` and is not stored apart (log 14). -/
structure Request where
  /-- `CMD`, the command word (30_encoding.md R61). -/
  cmd : Word
  /-- `IBUF`, the input byte buffer, index 0 first (20_memory.md R40). -/
  ibuf : List Byte
  /-- `IBUF_VALID`; false presents a null buffer, whatever `ibuf` holds (20_memory.md R42). -/
  ibufValid : Bool
  /-- `LEN`, the coverage length. -/
  len : Nat
  /-- `VIN`, the requested voltage in volts. -/
  vin : Rat
  deriving DecidableEq, Repr

/-- What the host may do between operations (60_exceptions.md R215): issue one operation, or assert reset. Reading
results and the fault registers changes nothing and is no move. -/
inductive HostMove where
  | op (r : Request)
  | reset
  deriving DecidableEq, Repr

end Sys2Proof
end

