-- ==== Sys2Proof/Decode.lean ====
section
/-! DEFINITION. The command word: its fields, the decoder and the encoder (30_encoding.md R60 to R66). -/

namespace Sys2Proof

/-- `OP`, bits 3:0 (R61). -/
def opField (w : Word) : BitVec 4 := w.extractLsb' 0 4

/-- `E`, bit 4 (R61). -/
def eField (w : Word) : Bool := w.getLsbD 4

/-- `RSV`, bits 7:5 (R61). -/
def rsvField (w : Word) : BitVec 3 := w.extractLsb' 5 3

/-- `IMM8`, bits 15:8 (R61). -/
def imm8Field (w : Word) : BitVec 8 := w.extractLsb' 8 8

/-- Why the decoder rejects a word whose operation code is one of the ten (R65). The machine answers each of them with
`Fault(ILLEGAL_CMD)`. -/
inductive DecodeError where
  /-- `RSV` is not 0b000. -/
  | reservedBits
  /-- `E = 1` on an operation other than BENOUT (R63). -/
  | enableBit
  /-- `IMM8` is not 0x00 on an operation other than BIND (R64). -/
  | immediate
  deriving DecidableEq, Repr

/-- The checks of R65 for one operation: `RSV` always, `E` unless the operation reads it, `IMM8` unless it reads it. -/
def checked (w : Word) (readsE readsImm8 : Bool) (i : Instr) : Except DecodeError Instr :=
  if rsvField w ≠ 0#3 then .error .reservedBits
  else if eField w && !readsE then .error .enableBit
  else if imm8Field w ≠ 0#8 && !readsImm8 then .error .immediate
  else .ok i

/-- The decoder: it selects the operation from `OP` alone and then checks R65; a reserved operation code decodes to its
row whatever the other bits are (R62, R66). -/
def decode (w : Word) : Except DecodeError Instr :=
  match (opField w).toNat with
  | 0 => checked w false false .crc
  | 1 => checked w false false .crcapp
  | 2 => checked w false false .fval
  | 3 => checked w false true (.bind (imm8Field w))
  | 4 => checked w false false .bsetv
  | 5 => checked w true false (.benout (eField w))
  | 6 => checked w false false .brdv
  | 7 => checked w false false .rval
  | 8 => checked w false false .rerr
  | 9 => checked w false false .rparsev
  | 10 => .ok (.reservedA (w.extractLsb' 4 12))
  | 11 => .ok (.reservedB (w.extractLsb' 4 12))
  | 12 => .ok (.reservedC (w.extractLsb' 4 12))
  | 13 => .ok (.reservedD (w.extractLsb' 4 12))
  | 14 => .ok (.reservedE (w.extractLsb' 4 12))
  | _ => .ok (.reservedF (w.extractLsb' 4 12))

/-- A command word from its fields, most significant first (R61). -/
def commandWord (imm8 : BitVec 8) (rsv : BitVec 3) (e : BitVec 1) (op : BitVec 4) : Word :=
  imm8 ++ (rsv ++ (e ++ op : BitVec 5) : BitVec 8)

/-- The encoder: the command word of an instruction (R61, R62). -/
def encode : Instr → Word
  | .crc => commandWord 0#8 0#3 0#1 0x0#4
  | .crcapp => commandWord 0#8 0#3 0#1 0x1#4
  | .fval => commandWord 0#8 0#3 0#1 0x2#4
  | .bind imm8 => commandWord imm8 0#3 0#1 0x3#4
  | .bsetv => commandWord 0#8 0#3 0#1 0x4#4
  | .benout enable => commandWord 0#8 0#3 (BitVec.ofBool enable) 0x5#4
  | .brdv => commandWord 0#8 0#3 0#1 0x6#4
  | .rval => commandWord 0#8 0#3 0#1 0x7#4
  | .rerr => commandWord 0#8 0#3 0#1 0x8#4
  | .rparsev => commandWord 0#8 0#3 0#1 0x9#4
  | .reservedA rest => rest ++ 0xA#4
  | .reservedB rest => rest ++ 0xB#4
  | .reservedC rest => rest ++ 0xC#4
  | .reservedD rest => rest ++ 0xD#4
  | .reservedE rest => rest ++ 0xE#4
  | .reservedF rest => rest ++ 0xF#4

/-- The instruction the decoder reads from the low `nbits` bits of `w`; a command word is exactly 16 bits (R60), so more
bits than that are no command word. -/
def decodeTableWord (nbits w : Nat) : Option Instr :=
  let bits := w % 2 ^ nbits
  if bits < 2 ^ 16 then (decode (BitVec.ofNat 16 bits)).toOption else none

end Sys2Proof
end

