-- ==== Sys2Proof/Machine/Constants.lean ====
section
/-! DEFINITION. The constants wired into FCODEC (10_state.md R26, R27; 00_scope.md R6). -/

namespace Sys2Proof.Machine

/-- `CRC_POLY` (R26). -/
def crcPoly : Word := 0xA001#16

/-- `CRC_INIT` (R26). -/
def crcInit : Word := 0xFFFF#16

/-- `ADDR_MIN` (40_config.md R100). -/
def addrMin : Byte := 0x01#8

/-- `ADDR_MAX` (40_config.md R100). -/
def addrMax : Byte := 0x06#8

/-- `FC_WRITE`, write-multiple-registers (R27). -/
def fcWrite : Byte := 0x10#8

/-- `FC_READ`, read-registers (R27). -/
def fcRead : Byte := 0x03#8

/-- `REG_ENABLE`, the device's output-enable register (R27). -/
def regEnable : Byte := 0x11#8

/-- `REG_VOLT`, the low byte register of the working voltage (R27). -/
def regVolt : Byte := 0x15#8

/-- `CNT_VOLT`, the register count of the voltage frames (R27). -/
def cntVolt : Byte := 0x02#8

/-- `CNT_ENABLE`, the register count of the enable frame (R27). -/
def cntEnable : Byte := 0x01#8

/-- `PAD`, the padding bytes of the read frame shape, never transmitted (R27; 42_frame_encode.md R149). -/
def padByte : Byte := 0x00#8

/-- `ERR_MASK`, bit 7 of the function-code byte (R27). -/
def errMask : Byte := 0x80#8

end Sys2Proof.Machine
end

