-- ==== Sys2Proof/Config.lean ====
section
/-! DEFINITION. The implementation parameters of FCODEC (00_scope.md R6) and the free values of the model.

The parameters that R6 calls OPEN are plain data carried by the state (`State.params`) and written by no step, so
every statement about a state is a statement about every setting of them (log 9). What the spec gives no value for at
all is an opaque constant here. -/

namespace Sys2Proof

/-- `VOLT_ARITH` (R6, 42_frame_encode.md R140): how `voltage * 10` is computed. -/
inductive VoltArith where
  | exact     -- the exact rational product (spec default)
  | binary64  -- IEEE 754 binary64, round to nearest, ties to even
  deriving DecidableEq, Repr

/-- `VOLT_OOR_POLICY` (R6, 42_frame_encode.md R141): what becomes of a voltage code outside 0..65535. -/
inductive VoltOorPolicy where
  | fault  -- raise VOLTAGE_UNENCODABLE (spec default)
  | clamp  -- saturate at 0 and 65535
  | wrap   -- mathematical modulo 65536
  deriving DecidableEq, Repr

/-- `ERR_MIN_LEN` (R6, 43_frame_decode.md R172): the length below which RERR calls a response too short. -/
inductive ErrMinLen where
  | two    -- spec default
  | three
  deriving DecidableEq, Repr

/-- The OPEN parameters of one FCODEC (R6). `BUF_CAP` is taken unbounded (20_memory.md R41; log 11). -/
structure Params where
  /-- `ENABLE_TRUE_BYTE`, 0x01..0xFF (42_frame_encode.md R146). -/
  enableTrueByte : Byte
  /-- `ERR_MIN_LEN`, 2 or 3 (43_frame_decode.md R172). -/
  errMinLen : ErrMinLen
  /-- `PARSE_SENTINEL`, any negative rational (43_frame_decode.md R173). -/
  parseSentinel : Rat
  /-- `VOLT_OOR_POLICY` (42_frame_encode.md R141). -/
  voltOorPolicy : VoltOorPolicy
  /-- `VOLT_ARITH` (42_frame_encode.md R140). -/
  voltArith : VoltArith
  deriving DecidableEq, Repr

/-- An unknown pair of naturals behind `PARSE_SENTINEL`: the spec gives only the sentinel's sign (R173; D16; log 10). -/
opaque Config.sentinelSeed : Nat × Nat

/-- `PARSE_SENTINEL` at reset: minus an unknown positive rational. As the seed ranges over all pairs, this ranges over
all negative rationals, so nothing but the sign can be proved of it (log 10). -/
def Config.parseSentinel : Rat :=
  -(((Config.sentinelSeed.1 : Rat) + 1) / ((Config.sentinelSeed.2 : Rat) + 1))

/-- The free values of `CRCREG` between operations: 10_state.md R26 says it does not survive the operation and
93_implementation_defined.md item 16 that it has any value outside a computation (log 7). -/
opaque Config.crcRegIdle : Nat → Word

/-- The parameters at reset: the spec's defaults where R6 gives one, the opaque sentinel where it does not (log 9). -/
def Config.defaults : Params where
  enableTrueByte := 0x01#8
  errMinLen := .two
  parseSentinel := Config.parseSentinel
  voltOorPolicy := .fault
  voltArith := .exact

end Sys2Proof
end

