-- ==== Sys2Proof/Machine/State.lean ====
section
/-! DEFINITION. The state of FCODEC (10_state.md), plain data, the ways a step can stop, and the state after reset. -/

namespace Sys2Proof.Machine

/-- Why a step, or a host's read of a result, stops. FCODEC's own faults (60_exceptions.md R200) are not here: they are
taken, with a next state. -/
inductive Fault where
  /-- Raised by the step and by every operation while `FAULT ≠ NONE`: the block has no step (R202). Safe: the spec says
  the block is stuck until reset. -/
  | halted
  /-- Raised by a host's read of a result field that the last operation did not deliver (10_state.md R22); no step
  raises it. Safe: the spec asks for exactly this. -/
  | resultAbsent
  deriving DecidableEq, Repr

/-- Why the model refuses. -/
inductive Refusal where
  /-- An instruction with no meaning in the model; raised by no arm of `exec`. Safe. -/
  | notModelled (mnemonic : String)
  /-- `exec` was asked for an operation while the host presents no request (00_scope.md R5: operations only come from
  the host). `step` never does that. Safe. -/
  | noOperation
  deriving DecidableEq, Repr

/-- The result fields of one operation (10_state.md R22). A field the operation does not name holds no value. -/
structure Results where
  /-- `STATUS`, 2 bits (60_exceptions.md R205). -/
  status : Option (BitVec 2)
  /-- `OBUF`, the output byte buffer (20_memory.md R41). -/
  obuf : Option (List Byte)
  /-- `RBIT`, the Boolean result. -/
  rbit : Option Bool
  /-- `RCRC`, the checksum result. -/
  rcrc : Option Word
  /-- `RVOLT`, the decoded voltage in volts (43_frame_decode.md R174). -/
  rvolt : Option Rat
  deriving DecidableEq, Repr

/-- No result field holds a value: after reset (10_state.md R30) and after a fault (60_exceptions.md R201). -/
def Results.absent : Results :=
  { status := none, obuf := none, rbit := none, rcrc := none, rvolt := none }

/-- The state of FCODEC (10_state.md R20), its interface (R21, R22), its parameters (00_scope.md R6), and one counter of
the model's own. -/
structure State where
  /-- `DEV_ADDR`, `CFG[7:0]` (R28). -/
  devAddr : Byte
  /-- `BOUND`, `CFG[8]` (R28). -/
  bound : Bool
  /-- `FAULT`, the fault code (R29). -/
  fault : BitVec 4
  /-- `FAULT_CMD`, the command word of the faulting operation (R29). -/
  faultCmd : Word
  /-- `CRCREG`, the register of the CRC engine (R26). -/
  crcReg : Word
  /-- The result fields of the last operation (R22). -/
  results : Results
  /-- The host's moves not yet performed, oldest first; the head is what it presents now (R21; 20_memory.md R51;
  log 1). -/
  host : List HostMove
  /-- The implementation parameters (00_scope.md R6); no step writes them (log 9). -/
  params : Params
  /-- The model's own: how many free values have been used (log 7). -/
  freeTick : Nat
  deriving DecidableEq, Repr

/-- The state right after reset (10_state.md R30): unbound, no fault, no result, no host move presented. `DEV_ADDR`,
`FAULT_CMD` and `CRCREG` are unspecified there; the values are the model's (logs 4, 5, 6), as is `freeTick` (log 8). -/
def State.reset : State where
  devAddr := 0x00#8
  bound := false
  fault := 0#4
  faultCmd := 0x0000#16
  crcReg := 0x0000#16
  results := Results.absent
  host := []
  params := Config.defaults
  freeTick := 0

end Sys2Proof.Machine
end

