-- ==== Sys2Proof/Machine/Ops.lean ====
section
/-! DEFINITION. The named operations over the state: the common prologue (60_exceptions.md R203), delivering results
(10_state.md R22), taking a fault (60_exceptions.md R201), reset (70_reset_and_hazards.md R230), the host's reads
(60_exceptions.md R215). -/

namespace Sys2Proof.Machine

/-- The fault codes that an operation raises (60_exceptions.md R200). -/
inductive FaultCode where
  | illegalCmd
  | notBound
  | alreadyBound
  | lenExceedsBuffer
  | capacity
  | voltageUnencodable
  deriving DecidableEq, Repr

/-- The value held in `FAULT` for each fault (60_exceptions.md R200). -/
def faultValue : FaultCode → BitVec 4
  | .illegalCmd => 1#4
  | .notBound => 2#4
  | .alreadyBound => 3#4
  | .lenExceedsBuffer => 4#4
  | .capacity => 5#4
  | .voltageUnencodable => 6#4

/-- `FAULT = NONE` (60_exceptions.md R200). -/
def faultNone : BitVec 4 := 0#4

/-- `STATUS = OK` (60_exceptions.md R205). -/
def statusOk : BitVec 2 := 0#2

/-- `STATUS = INVALID_ADDRESS` (60_exceptions.md R205). -/
def statusInvalidAddress : BitVec 2 := 1#2

/-- What a step of FCODEC can answer. -/
abbrev StepOutcome := Host.Outcome State Fault Refusal

/-- The state after a fault entry (60_exceptions.md R201): `FAULT` and `FAULT_CMD` are written, no result field holds a
value, the request is done with, everything else keeps its value. -/
def enterFault (code : FaultCode) (r : Request) (s : State) : State :=
  { s with
    fault := faultValue code
    faultCmd := r.cmd
    results := Results.absent
    host := s.host.tail }

/-- TAKING A FAULT, `raise Fault(code)` (60_exceptions.md R201). It is the one exception entry of the block: there is no
vector, no saved return point and no mode. -/
def raiseFault (code : FaultCode) (r : Request) (s : State) : StepOutcome := .next (enterFault code r s)

/-- THE RETURN FROM A FAULT (60_exceptions.md R207: "a fault is left only by reset"; 70_reset_and_hazards.md R230): reset
sets every piece of state to its reset value. `rest` are the host's moves after the reset; the parameters are wired, and
the model's own counter goes on (log 17). -/
def resetBlock (s : State) (rest : List HostMove) : State :=
  { State.reset with
    host := rest
    params := s.params
    freeTick := s.freeTick }

/-- The state at the end of an operation that does not fault (10_state.md R22): exactly the named fields hold a value,
the request is done with, and `CRCREG`, which does not survive the operation (R26), takes a free value (log 7). -/
def finish (res : Results) (s : State) : State :=
  { s with
    results := res
    host := s.host.tail
    crcReg := Config.crcRegIdle s.freeTick
    freeTick := s.freeTick + 1 }

/-- `return (field = v, ...)` (00_scope.md R10; 10_state.md R22). -/
def deliver (res : Results) (s : State) : StepOutcome := .next (finish res s)

/-- The prologue of every operation (60_exceptions.md R203): halted, there is no step (R202); else the operation runs on
the request the host presents. -/
def operate (s : State) (body : Request → StepOutcome) : StepOutcome :=
  if s.fault ≠ faultNone then .fault .halted
  else
    match s.host with
    | .op r :: _ => body r
    | _ => .refused .noOperation

/-- The binding check of a protocol operation (40_config.md R102), before any operand is read. -/
def needBound (r : Request) (s : State) (body : StepOutcome) : StepOutcome :=
  if s.bound then body else raiseFault .notBound r s

/-- `RESULT` with `STATUS = OK` and no other field; an operation adds the field its rule names (10_state.md R22). -/
def okResults : Results := { Results.absent with status := some statusOk }

/-- The host's moves after the first reset among them: what a halted block goes on with (60_exceptions.md R202: an issued
operation has no step and changes nothing, and only reset leaves the halted state; log 3). -/
def afterReset : List HostMove → Option (List HostMove)
  | [] => none
  | .op _ :: rest => afterReset rest
  | .reset :: rest => some rest

/-- The step of a halted block (60_exceptions.md R202): reset, or no step. -/
def stepHalted (s : State) : StepOutcome :=
  match afterReset s.host with
  | some rest => .next (resetBlock s rest)
  | none => .fault .halted

/-- `CFG` (10_state.md R28): `DEV_ADDR` in bits 7:0, `BOUND` in bit 8, bits 15:9 hardwired 0. -/
def State.cfg (s : State) : Word := 0#7 ++ (BitVec.ofBool s.bound ++ s.devAddr : BitVec 9)

/-- `OBUF_LEN`: the number of bytes in `OBUF`, delivered together with it (10_state.md R22). -/
def Results.obufLen (res : Results) : Option Nat := res.obuf.map List.length

/-- A host's read of a result field: a field that holds no value is a fault of the read (10_state.md R22). -/
def readField {α : Type} (field : Option α) : Except Fault α :=
  match field with
  | some v => .ok v
  | none => .error .resultAbsent

/-- The host reads `STATUS` (10_state.md R22). -/
def readStatus (s : State) : Except Fault (BitVec 2) := readField s.results.status

/-- The host reads `OBUF` (10_state.md R22). -/
def readObuf (s : State) : Except Fault (List Byte) := readField s.results.obuf

/-- The host reads `OBUF_LEN` (10_state.md R22). -/
def readObufLen (s : State) : Except Fault Nat := readField s.results.obufLen

/-- The host reads `RBIT` (10_state.md R22). -/
def readRbit (s : State) : Except Fault Bool := readField s.results.rbit

/-- The host reads `RCRC` (10_state.md R22). -/
def readRcrc (s : State) : Except Fault Word := readField s.results.rcrc

/-- The host reads `RVOLT` (10_state.md R22). -/
def readRvolt (s : State) : Except Fault Rat := readField s.results.rvolt

/-- The host reads `FAULT`, at any time and without side effect (10_state.md R29). -/
def readFault (s : State) : BitVec 4 := s.fault

/-- The host reads `FAULT_CMD`, at any time and without side effect (10_state.md R29); meaningful only while
`FAULT ≠ NONE`. -/
def readFaultCmd (s : State) : Word := s.faultCmd

end Sys2Proof.Machine
end

