-- ==== Sys2Proof/Machine/Binding.lean ====
section
/-! DEFINITION. Configuration: BIND (40_config.md). -/

namespace Sys2Proof.Machine

/-- BIND (40_config.md R100): a second binding faults, an address outside 1..6 is the status INVALID_ADDRESS and leaves
the block as it was. -/
def execBind (imm8 : BitVec 8) (s : State) : Host.Outcome State Fault Refusal :=
  operate s fun r =>
    if s.bound then raiseFault .alreadyBound r s
    else if addrMin ≤ imm8 ∧ imm8 ≤ addrMax then
      deliver okResults { s with devAddr := imm8, bound := true }
    else deliver { Results.absent with status := some statusInvalidAddress } s

end Sys2Proof.Machine
end

