-- ==== Sys2Proof/Machine/Crc.lean ====
section
/-! DEFINITION. The checksum function and the CRC engine (41_crc.md R110 to R113), and the little-endian byte pair of a
16-bit value (00_scope.md R8, R9). -/

namespace Sys2Proof.Machine

/-- `lo8(v) = v[7:0]` (R8). -/
def lo8 (v : Word) : Byte := v.extractLsb' 0 8

/-- `hi8(v) = v[15:8]` (R8). -/
def hi8 (v : Word) : Byte := v.extractLsb' 8 8

/-- `LE16(v) = [lo8(v), hi8(v)]`, low byte first (R9; 20_memory.md R44). -/
def le16 (v : Word) : List Byte := [lo8 v, hi8 v]

/-- The 16-bit value of a low and a high byte: `zext_16(lo) OR (zext_16(hi) << 8)` (43_frame_decode.md R173). -/
def word16 (lo hi : Byte) : Word := lo.setWidth 16 ||| (hi.setWidth 16 <<< 8)

/-- One XOR-shift-reduce step (R110). -/
def crcBit (c : Word) : Word :=
  if c.getLsbD 0 then (c >>> 1) ^^^ crcPoly else c >>> 1

/-- One byte: XORed into the low end, then 8 bit steps (R111). -/
def crcByte (c : Word) (b : Byte) : Word :=
  crcBit (crcBit (crcBit (crcBit (crcBit (crcBit (crcBit (crcBit (c ^^^ b.setWidth 16))))))))

/-- The checksum of a byte sequence: from `CRC_INIT`, byte after byte, no final XOR (R112). -/
def crc16 (bytes : List Byte) : Word := bytes.foldl crcByte crcInit

/-- The CRC engine takes in one byte (R113): `CRCREG` is updated by the byte step. -/
def crcFeed (s : State) (b : Byte) : State := { s with crcReg := crcByte s.crcReg b }

/-- The CRC engine over a byte sequence (R113): `CRCREG` starts from `CRC_INIT`, whatever it held, takes the bytes in in
increasing index order, and then holds the checksum (10_state.md R26). -/
def crcEngine (s : State) (bytes : List Byte) : State :=
  bytes.foldl crcFeed { s with crcReg := crcInit }

end Sys2Proof.Machine
end

