-- ==== Sys2Proof/Machine/Operands.lean ====
section
/-! DEFINITION. The operands of an operation: the effective input buffer (20_memory.md R42), the voltage code
(42_frame_encode.md R140, R141), the enable byte (R146), and the value of a reading (43_frame_decode.md R174). -/

namespace Sys2Proof

/-- `IBUF_LEN` as presented (10_state.md R21). -/
def Request.ibufLen (r : Request) : Nat := r.ibuf.length

/-- The effective input buffer: `IBUF` when `IBUF_VALID = 1`; a null buffer is the empty buffer (20_memory.md R42). -/
def Request.buffer (r : Request) : List Byte := if r.ibufValid then r.ibuf else []

/-- `n`, the effective input length: `IBUF_LEN` when `IBUF_VALID = 1`, else 0 (20_memory.md R42). -/
def Request.effLen (r : Request) : Nat := if r.ibufValid then r.ibufLen else 0

/-- `ERR_MIN_LEN` as a length (43_frame_decode.md R172). -/
def ErrMinLen.toNat : ErrMinLen → Nat
  | .two => 2
  | .three => 3

end Sys2Proof

namespace Sys2Proof.Machine

/-- `trunc(x)`: the integer part of a rational, rounding toward zero (00_scope.md R10). -/
def trunc (x : Rat) : Int := x.num.tdiv x.den

/-- The quotient `num / den` of naturals rounded to the nearest integer, ties to even. -/
def divNearestEven (num den : Nat) : Nat :=
  let q := num / den
  let twice := 2 * (num % den)
  if den < twice || (twice = den && q % 2 = 1) then q + 1 else q

/-- The exponent `e` with `2^e ≤ num / den < 2^(e+1)`, for positive `num` and `den`. -/
def binaryExponent (num den : Nat) : Int :=
  let e : Int := (Nat.log2 num : Int) - (Nat.log2 den : Int)
  if num * 2 ^ (-e).toNat < den * 2 ^ e.toNat then e - 1 else e

/-- The exponent of the last place of the binary64 values around `num / den`: 53 significant bits, and no finer than the
subnormal step `2^-1074`. -/
def lastPlace (num den : Nat) : Int :=
  max (binaryExponent num den - 52) (-1074)

/-- `fl64` (42_frame_encode.md R140): the nearest IEEE 754 binary64 value to a rational, ties to even; `none` where the
rounding overflows to an infinity (R141; log 12). -/
def fl64 (x : Rat) : Option Rat :=
  if x.num = 0 then some 0
  else
    let num := x.num.natAbs
    let p := lastPlace num x.den
    let m := divNearestEven (num * 2 ^ (-p).toNat) (x.den * 2 ^ p.toNat)
    if m * 2 ^ p.toNat < 2 ^ 1024 * 2 ^ (-p).toNat then
      some (mkRat (x.num.sign * (m * 2 ^ p.toNat : Nat)) (2 ^ (-p).toNat))
    else none

/-- `voltageCode(VIN)` before the range test (42_frame_encode.md R140); `none` where binary64 gives an infinity, which
R141 sends to the fault under every policy (D12; log 12). -/
def voltageCode (arith : VoltArith) (vin : Rat) : Option Int :=
  match arith with
  | .exact => some (trunc (10 * vin))
  | .binary64 =>
    match fl64 vin with
    | none => none
    | some v =>
      match fl64 (v * 10) with
      | none => none
      | some product => some (trunc product)

/-- The 16-bit voltage code that BSETV packs, after the test of 42_frame_encode.md R141; `none` stands for
`raise Fault(VOLTAGE_UNENCODABLE)`. -/
def encodedVoltage (p : Params) (vin : Rat) : Option Word :=
  match voltageCode p.voltArith vin with
  | none => none
  | some q =>
    if q < 0 ∨ 65535 < q then
      match p.voltOorPolicy with
      | .fault => none
      | .clamp => some (if q < 0 then 0x0000#16 else 0xFFFF#16)
      | .wrap => some (BitVec.ofNat 16 (q % 65536).toNat)
    else some (BitVec.ofNat 16 q.toNat)

/-- The enable byte of BENOUT (42_frame_encode.md R146). -/
def enableByte (p : Params) (e : Bool) : Byte := if e then p.enableTrueByte else 0x00#8

/-- The reading of a voltage code: the exact rational `raw / 10` (43_frame_decode.md R174). -/
def readingValue (raw : Word) : Rat := mkRat raw.toNat 10

end Sys2Proof.Machine
end

