-- ==== Sys2Proof/Machine/Flags.lean ====
section
/-! DEFINITION. FCODEC has no flag register (10_state.md R25): its Boolean outcomes are the result field `RBIT`. Their
computations, and the frames and readings of the codec, are here. -/

namespace Sys2Proof.Machine

/-- A frame's last two bytes are `LE16` of the given checksum (30_encoding.md R68; 41_crc.md R116). -/
def trailerMatches (f : List Byte) (c : Word) : Bool := f.drop (f.length - 2) == le16 c

/-- The bytes of a frame that its trailing checksum covers: all but the last two (30_encoding.md R68). -/
def covered (f : List Byte) : List Byte := f.take (f.length - 2)

/-- The outcome of FVAL as a function of the frame (41_crc.md R116): the block computes it with the CRC engine, which
gives the same (`Laws`). -/
def frameValid (f : List Byte) : Bool :=
  if f.length < 3 then false else trailerMatches f (crc16 (covered f))

theorem errMinLen_two_le (m : ErrMinLen) : 2 ≤ m.toNat := by cases m <;> decide

/-- The outcome of RERR (43_frame_decode.md R172): too short, or bit 7 of byte 1. -/
def errorResponse (m : ErrMinLen) (f : List Byte) : Bool :=
  if h : f.length < m.toNat then true
  else ((f[1]'(by have := errMinLen_two_le m; omega)) &&& errMask) != 0#8

/-- The outcome of RPARSEV (43_frame_decode.md R173): the sentinel under 8 bytes, else bytes 4 and 5 little-endian. -/
def voltageReading (sentinel : Rat) (f : List Byte) : Rat :=
  if h : f.length < 8 then sentinel
  else readingValue (word16 (f[4]'(by omega)) (f[5]'(by omega)))

/-- CRCAPP's output buffer (41_crc.md R115): the input copied, the checksum written at `len` and `len + 1`. -/
def withChecksum (f : List Byte) (len : Nat) (c : Word) : List Byte :=
  (f.set len (lo8 c)).set (len + 1) (hi8 c)

/-- A frame: its bytes and then its checksum, low byte first (30_encoding.md R68). -/
def frame (body : List Byte) (c : Word) : List Byte := body ++ [lo8 c, hi8 c]

/-- The covered bytes of `W_SETV` (30_encoding.md R69). -/
def setVoltageBody (addr : Byte) (q : Word) : List Byte :=
  [addr, fcWrite, regVolt, cntVolt, lo8 q, hi8 q]

/-- The covered bytes of `W_ENOUT` (30_encoding.md R70). -/
def enableOutputBody (addr eb : Byte) : List Byte :=
  [addr, fcWrite, regEnable, cntEnable, eb]

/-- The covered bytes of `W_RDV` (30_encoding.md R71). -/
def readVoltageBody (addr : Byte) : List Byte :=
  [addr, fcRead, regVolt, cntVolt]

end Sys2Proof.Machine
end

