-- ==== Sys2Proof/Machine/Checksum.lean ====
section
/-! DEFINITION. The CRC-16 generator and checker: CRC, CRCAPP, FVAL (41_crc.md). -/

namespace Sys2Proof.Machine

/-- CRC (41_crc.md R114). -/
def execCrc (s : State) : Host.Outcome State Fault Refusal :=
  operate s fun r =>
    if r.effLen < r.len then raiseFault .lenExceedsBuffer r s
    else
      let e := crcEngine s (r.buffer.take r.len)
      deliver { okResults with rcrc := some e.crcReg } e

/-- CRCAPP (41_crc.md R115). -/
def execCrcapp (s : State) : Host.Outcome State Fault Refusal :=
  operate s fun r =>
    if r.effLen < r.len then raiseFault .lenExceedsBuffer r s
    else if r.effLen < r.len + 2 then raiseFault .capacity r s
    else
      let e := crcEngine s (r.buffer.take r.len)
      deliver { okResults with obuf := some (withChecksum r.buffer r.len e.crcReg) } e

/-- FVAL (41_crc.md R116). -/
def execFval (s : State) : Host.Outcome State Fault Refusal :=
  operate s fun r =>
    if r.effLen < 3 then deliver { okResults with rbit := some false } s
    else
      let e := crcEngine s (covered r.buffer)
      deliver { okResults with rbit := some (trailerMatches r.buffer e.crcReg) } e

end Sys2Proof.Machine
end

