-- ==== Sys2Proof/Machine/Decoder.lean ====
section
/-! DEFINITION. The frame decoder: RVAL, RERR, RPARSEV (43_frame_decode.md). It checks nothing that its rules do not name
(R175). -/

namespace Sys2Proof.Machine

/-- RVAL (43_frame_decode.md R170): length, address, checksum, in this order. -/
def execRval (s : State) : Host.Outcome State Fault Refusal :=
  operate s fun r =>
    needBound r s
      (if r.ibufValid = false ∨ r.effLen < 3 then deliver { okResults with rbit := some false } s
      else if r.buffer.head? ≠ some s.devAddr then deliver { okResults with rbit := some false } s
      else
        let e := crcEngine s (covered r.buffer)
        deliver { okResults with rbit := some (trailerMatches r.buffer e.crcReg) } e)

/-- RERR (43_frame_decode.md R172): a null buffer is empty, hence too short. -/
def execRerr (s : State) : Host.Outcome State Fault Refusal :=
  operate s fun r =>
    needBound r s
      (deliver { okResults with rbit := some (errorResponse s.params.errMinLen r.buffer) } s)

/-- RPARSEV (43_frame_decode.md R173): a null buffer is empty, hence too short. -/
def execRparsev (s : State) : Host.Outcome State Fault Refusal :=
  operate s fun r =>
    needBound r s
      (deliver { okResults with rvolt := some (voltageReading s.params.parseSentinel r.buffer) } s)

end Sys2Proof.Machine
end

