-- ==== Sys2Proof/Machine/Encoder.lean ====
section
/-! DEFINITION. The frame encoder: BSETV, BENOUT, BRDV (42_frame_encode.md). -/

namespace Sys2Proof.Machine

/-- The encoder delivers a frame: the checksum of its body comes from the CRC engine (42_frame_encode.md R142, R145,
R148). -/
def deliverFrame (body : List Byte) (s : State) : StepOutcome :=
  let e := crcEngine s body
  deliver { okResults with obuf := some (frame body e.crcReg) } e

/-- BSETV (42_frame_encode.md R142), with no range check of its own (R143). -/
def execBsetv (s : State) : Host.Outcome State Fault Refusal :=
  operate s fun r =>
    needBound r s
      (match encodedVoltage s.params r.vin with
      | none => raiseFault .voltageUnencodable r s
      | some q => deliverFrame (setVoltageBody s.devAddr q) s)

/-- BENOUT (42_frame_encode.md R145). -/
def execBenout (enable : Bool) (s : State) : Host.Outcome State Fault Refusal :=
  operate s fun r =>
    needBound r s (deliverFrame (enableOutputBody s.devAddr (enableByte s.params enable)) s)

/-- BRDV (42_frame_encode.md R148); the padding bytes are neither sent nor covered (R149). -/
def execBrdv (s : State) : Host.Outcome State Fault Refusal :=
  operate s fun r => needBound r s (deliverFrame (readVoltageBody s.devAddr) s)

end Sys2Proof.Machine
end

