-- ==== Sys2Proof/Machine/Reserved.lean ====
section
/-! DEFINITION. Illegal command words: the reserved operation codes 0xA..0xF (30_encoding.md R66) and the words that the
decoder rejects (R65). Each raises `Fault(ILLEGAL_CMD)` and performs nothing. -/

namespace Sys2Proof.Machine

/-- An illegal command word (30_encoding.md R65, R66), after the halt check (60_exceptions.md R203). -/
def illegalCommand (s : State) : StepOutcome := operate s fun r => raiseFault .illegalCmd r s

/-- Operation code 0xA (30_encoding.md R66). -/
def execReservedA (s : State) : Host.Outcome State Fault Refusal := illegalCommand s

/-- Operation code 0xB (30_encoding.md R66). -/
def execReservedB (s : State) : Host.Outcome State Fault Refusal := illegalCommand s

/-- Operation code 0xC (30_encoding.md R66). -/
def execReservedC (s : State) : Host.Outcome State Fault Refusal := illegalCommand s

/-- Operation code 0xD (30_encoding.md R66). -/
def execReservedD (s : State) : Host.Outcome State Fault Refusal := illegalCommand s

/-- Operation code 0xE (30_encoding.md R66). -/
def execReservedE (s : State) : Host.Outcome State Fault Refusal := illegalCommand s

/-- Operation code 0xF (30_encoding.md R66). -/
def execReservedF (s : State) : Host.Outcome State Fault Refusal := illegalCommand s

end Sys2Proof.Machine
end

