-- ==== Sys2Proof/Machine/Dispatch.lean ====
section
/-! DEFINITION. The dispatch: one arm per row of the opcode table (30_encoding.md R62, R66). -/

namespace Sys2Proof.Machine

def exec (i : Instr) (s : State) : Host.Outcome State Fault Refusal :=
  match i with
  | .crc => Sys2Proof.Machine.execCrc s
  | .crcapp => Sys2Proof.Machine.execCrcapp s
  | .fval => Sys2Proof.Machine.execFval s
  | .bind imm8 => Sys2Proof.Machine.execBind imm8 s
  | .bsetv => Sys2Proof.Machine.execBsetv s
  | .benout enable => Sys2Proof.Machine.execBenout enable s
  | .brdv => Sys2Proof.Machine.execBrdv s
  | .rval => Sys2Proof.Machine.execRval s
  | .rerr => Sys2Proof.Machine.execRerr s
  | .rparsev => Sys2Proof.Machine.execRparsev s
  | .reservedA _ => Sys2Proof.Machine.execReservedA s
  | .reservedB _ => Sys2Proof.Machine.execReservedB s
  | .reservedC _ => Sys2Proof.Machine.execReservedC s
  | .reservedD _ => Sys2Proof.Machine.execReservedD s
  | .reservedE _ => Sys2Proof.Machine.execReservedE s
  | .reservedF _ => Sys2Proof.Machine.execReservedF s

end Sys2Proof.Machine
end

