-- ==== Sys2Proof/Machine/Step.lean ====
section
/-! DEFINITION. The step of the machine: one move of the host (20_memory.md R51). -/

namespace Sys2Proof.Machine

/-- One step. A halted block takes none but reset (60_exceptions.md R202). Else the block performs the host's oldest move:
a reset (70_reset_and_hazards.md R230), or the operation of the presented command word, an illegal word raising
ILLEGAL_CMD (60_exceptions.md R203). With no move presented nothing happens (R206; log 2). -/
def step (s : State) : Host.Outcome State Fault Refusal :=
  if s.fault ≠ faultNone then stepHalted s
  else
    match s.host with
    | [] => .next s
    | .reset :: rest => .next (resetBlock s rest)
    | .op r :: _ =>
      match decode r.cmd with
      | .ok i => exec i s
      | .error _ => illegalCommand s

/-- The host presents, ahead of its other moves, the command word in the low `nbits` bits of `w`, with a null buffer and
zero in the other operand fields (logs 1 and 13). -/
def State.withFetchWord (s : State) (nbits w : Nat) : State :=
  { s with
    host := .op { cmd := BitVec.ofNat 16 (w % 2 ^ nbits), ibuf := [], ibufValid := false, len := 0, vin := 0 } :: s.host }

end Sys2Proof.Machine
end

