-- ==== Sys2Proof/WellFormed.lean ====
section
/-! DEFINITION. Well-formedness: which instructions are operations of the spec, which parameters R6 allows, which
requests fit a block of a given buffer capacity. -/

namespace Sys2Proof

/-- The instruction is one of the ten operations; the operation codes 0xA..0xF are reserved (30_encoding.md R66). Every
value of IMM8 is a legal BIND encoding (R64). -/
def Instr.wf : Instr → Bool
  | .crc => true
  | .crcapp => true
  | .fval => true
  | .bind _ => true
  | .bsetv => true
  | .benout _ => true
  | .brdv => true
  | .rval => true
  | .rerr => true
  | .rparsev => true
  | .reservedA _ => false
  | .reservedB _ => false
  | .reservedC _ => false
  | .reservedD _ => false
  | .reservedE _ => false
  | .reservedF _ => false

/-- The parameters lie in the ranges of 00_scope.md R6: a non-zero enable byte and a negative sentinel. -/
abbrev Params.wf (p : Params) : Prop :=
  p.enableTrueByte ≠ 0#8 ∧ p.parseSentinel < 0

/-- The request can be presented to a block of buffer capacity `cap` (10_state.md R21: `IBUF_LEN` and `LEN` lie in
0..`BUF_CAP`; 20_memory.md R41). The model itself takes `BUF_CAP` unbounded and checks nothing (log 11). -/
abbrev Request.fits (cap : Nat) (r : Request) : Prop :=
  r.ibuf.length ≤ cap ∧ r.len ≤ cap

end Sys2Proof
end

