-- ==== Sys2Proof/Safety.lean ====
section
/-! DEFINITION. What counts as a safe run of FCODEC, and the words the statements use: a presented request, a delivered
result and its frame, a taken fault, the fault table of 60_exceptions.md R200 and R203, and the invariant of the block. -/

namespace Sys2Proof.Machine

/-- The block is not halted and the host presents the request `r`, with `rest` its later moves. -/
def Ready (s : State) (r : Request) (rest : List HostMove) : Prop :=
  s.fault = 0#4 ∧ s.host = .op r :: rest

/-- What an operation other than BIND leaves unchanged when it delivers (10_state.md R20): everything but the results,
the request, which is done with, and `CRCREG` and the counter of free values, of which nothing is said (R26). -/
def Keeps (s t : State) : Prop :=
  t.devAddr = s.devAddr ∧ t.bound = s.bound ∧ t.fault = s.fault ∧ t.faultCmd = s.faultCmd ∧
    t.params = s.params ∧ t.host = s.host.tail

/-- The operation `i` completes at `s`, delivers exactly `res`, and changes nothing else. -/
def Delivers (i : Instr) (s : State) (res : Results) : Prop :=
  ∃ t, exec i s = .next t ∧ t.results = res ∧ Keeps s t

/-- The state after the fault of that code is taken on the request `r` (60_exceptions.md R201). -/
def faulted (code : BitVec 4) (r : Request) (s : State) : State :=
  { s with
    fault := code
    faultCmd := r.cmd
    results := { status := none, obuf := none, rbit := none, rcrc := none, rvolt := none }
    host := s.host.tail }

/-- Only `STATUS` delivered. -/
def onlyStatus (st : BitVec 2) : Results :=
  { status := some st, obuf := none, rbit := none, rcrc := none, rvolt := none }

/-- `STATUS = OK` and `OBUF` delivered. -/
def okObuf (o : List Byte) : Results :=
  { status := some 0#2, obuf := some o, rbit := none, rcrc := none, rvolt := none }

/-- `STATUS = OK` and `RBIT` delivered. -/
def okRbit (b : Bool) : Results :=
  { status := some 0#2, obuf := none, rbit := some b, rcrc := none, rvolt := none }

/-- `STATUS = OK` and `RCRC` delivered. -/
def okRcrc (c : Word) : Results :=
  { status := some 0#2, obuf := none, rbit := none, rcrc := some c, rvolt := none }

/-- `STATUS = OK` and `RVOLT` delivered. -/
def okRvolt (v : Rat) : Results :=
  { status := some 0#2, obuf := none, rbit := none, rcrc := none, rvolt := some v }

/-- FVAL answers `v` on every presentation of the bytes `f`, whatever the state of the block (41_crc.md R116). -/
def FvalGives (f : List Byte) (v : Bool) : Prop :=
  ∀ s r rest, Ready s r rest → r.buffer = f → Delivers .fval s (okRbit v)

/-- A word that is no legal command (30_encoding.md R65, R66), read off its bits. -/
abbrev IllegalWord (w : Word) : Prop :=
  10 ≤ (w.extractLsb' 0 4).toNat ∨ w.extractLsb' 5 3 ≠ 0#3 ∨
    (w.getLsbD 4 = true ∧ w.extractLsb' 0 4 ≠ 5#4) ∨
    (w.extractLsb' 8 8 ≠ 0#8 ∧ w.extractLsb' 0 4 ≠ 3#4)

/-- The six operations that need a bound address (40_config.md R102), by operation code. -/
def needsBound (op : BitVec 4) : Bool := 4 ≤ op.toNat && op.toNat ≤ 9

/-- The fault an issued request raises in a block that is not halted, by the causes of 60_exceptions.md R200 in the
order of R203; 0 is no fault. -/
def firstFault (bound : Bool) (p : Params) (r : Request) : BitVec 4 :=
  let op := r.cmd.extractLsb' 0 4
  if IllegalWord r.cmd then 1#4
  else if needsBound op ∧ bound = false then 2#4
  else if op = 3#4 ∧ bound = true then 3#4
  else if (op = 0#4 ∨ op = 1#4) ∧ r.effLen < r.len then 4#4
  else if op = 1#4 ∧ r.effLen < r.len + 2 then 5#4
  else if op = 4#4 ∧ encodedVoltage p r.vin = none then 6#4
  else 0#4

/-- The host keeps its duties with this request to a bound block (70_reset_and_hazards.md R235; 60_exceptions.md R215):
a legal command word, no second BIND, coverage within the buffer, room for the checksum, an encodable voltage. -/
def KeepsDuties (p : Params) (m : HostMove) : Prop :=
  ∃ r, m = .op r ∧ firstFault true p r = 0#4

/-- A safe run: `k` steps from `s` end in a state that is not halted. -/
def SafeRun (k : Nat) (s : State) : Prop :=
  ∃ t, Sys2Proof.core.run k s = .next t ∧ t.fault = 0#4

/-- The invariant of the block. -/
structure Invariant (s : State) : Prop where
  /-- The parameters lie in their ranges (00_scope.md R6). -/
  params_wf : s.params.wf
  /-- The bound address is 1..6 (40_config.md R101). -/
  bound_addr : s.bound = true → 1 ≤ s.devAddr.toNat ∧ s.devAddr.toNat ≤ 6
  /-- Fault codes 7 to 15 are never produced (60_exceptions.md R200). -/
  fault_code : s.fault.toNat ≤ 6
  /-- A faulting operation delivers no result field (60_exceptions.md R201). -/
  halted_results : s.fault ≠ 0#4 → s.results = Results.absent
  /-- `STATUS` values 2 and 3 are never delivered (60_exceptions.md R205). -/
  status_value : ∀ v, s.results.status = some v → v = 0#2 ∨ v = 1#2
  /-- No field is delivered without `STATUS` (10_state.md R22). -/
  status_first : s.results.status = none → s.results = Results.absent
  /-- A reading is the sentinel or a tenth of a 16-bit code (43_frame_decode.md R173). -/
  reading : ∀ v, s.results.rvolt = some v → v = s.params.parseSentinel ∨ ∃ raw : Word, v = (raw.toNat : Rat) / 10

/-- The two requests agree on the operand fields the operation reads (30_encoding.md R67); a null buffer and an empty one
are the same input (20_memory.md R42). -/
def SameOperands (i : Instr) (a b : Request) : Prop :=
  match i with
  | .crc => a.buffer = b.buffer ∧ a.len = b.len
  | .crcapp => a.buffer = b.buffer ∧ a.len = b.len
  | .fval => a.buffer = b.buffer
  | .bind _ => True
  | .bsetv => a.vin = b.vin
  | .benout _ => True
  | .brdv => True
  | .rval => a.buffer = b.buffer
  | .rerr => a.buffer = b.buffer
  | .rparsev => a.buffer = b.buffer
  | .reservedA _ => True
  | .reservedB _ => True
  | .reservedC _ => True
  | .reservedD _ => True
  | .reservedE _ => True
  | .reservedF _ => True

/-- The two states agree on the state the operation reads, besides `FAULT` (30_encoding.md R67). -/
def SameStateRead (i : Instr) (s t : State) : Prop :=
  match i with
  | .crc => True
  | .crcapp => True
  | .fval => True
  | .bind _ => s.bound = t.bound
  | .bsetv => s.bound = t.bound ∧ s.devAddr = t.devAddr
  | .benout _ => s.bound = t.bound ∧ s.devAddr = t.devAddr
  | .brdv => s.bound = t.bound ∧ s.devAddr = t.devAddr
  | .rval => s.bound = t.bound ∧ s.devAddr = t.devAddr
  | .rerr => s.bound = t.bound
  | .rparsev => s.bound = t.bound
  | .reservedA _ => True
  | .reservedB _ => True
  | .reservedC _ => True
  | .reservedD _ => True
  | .reservedE _ => True
  | .reservedF _ => True

/-- A value of IEEE 754 binary64: a 53-bit integer times a power of two in range (93_implementation_defined.md G8). -/
def IsBinary64 (z : Rat) : Prop :=
  ∃ m e : Int, |m| < 2 ^ 53 ∧ -1074 ≤ e ∧ e ≤ 971 ∧ z = (m : Rat) * (2 : Rat) ^ e

/-- A binary64 value whose significand is even (the choice of 42_frame_encode.md R140 on a tie). The significand is the one
of the value's own binade, so it has 53 bits unless the value is subnormal. -/
def IsEvenBinary64 (z : Rat) : Prop :=
  ∃ m e : Int, |m| < 2 ^ 53 ∧ -1074 ≤ e ∧ e ≤ 971 ∧ (2 ^ 52 ≤ |m| ∨ e = -1074) ∧ 2 ∣ m ∧ z = (m : Rat) * (2 : Rat) ^ e

end Sys2Proof.Machine
end

