-- ==== Sys2Proof/Certificates/Slice0/Obligations.lean ====
section
/-! DEFINITION. The statements of this row, for the provers. Each docstring names the rules of spec/ it formalises. -/

open Sys2Proof Sys2Proof.Machine

/-! ### The command word (30_encoding.md) -/

/-- R61, R62: no bit of an encoding is dropped, for every row and every operand. -/
def Obligations.DecodeOfEncode : Prop :=
  ∀ i : Instr, decode (encode i) = .ok i

/-- R60 to R66: an accepted word is the encoding of what it decodes to, so no two words mean one instruction. -/
def Obligations.EncodeOfDecode : Prop :=
  ∀ (w : Word) (i : Instr), decode w = .ok i → encode i = w

/-- R62, R65, R66: the decoder reads one of the ten operations exactly from the words that are not illegal. -/
def Obligations.DecoderAcceptsExactlyLegalWords : Prop :=
  ∀ w : Word, (∃ i : Instr, decode w = .ok i ∧ i.wf = true) ↔ ¬ IllegalWord w

/-- R61, R62, R63, R66: words written out from the encoding decode, and words that R65 calls illegal do not. That R65's
causes are told apart by name, and that 0x0116, with both `E` and `IMM8` wrong, is rejected for its enable bit, is the
model's order (log 23, DEDUCED), which no rule gives. -/
def Obligations.KnownWordsDecode : Prop :=
  decode 0x0000#16 = .ok .crc ∧ decode 0x0603#16 = .ok (.bind 0x06#8) ∧
    decode 0x0015#16 = .ok (.benout true) ∧ decode 0x0009#16 = .ok .rparsev ∧
    decode 0x123A#16 = .ok (.reservedA 0x123#12) ∧
    decode 0x0020#16 = .error .reservedBits ∧ decode 0x0113#16 = .error .enableBit ∧
    decode 0x0116#16 = .error .enableBit ∧ decode 0x0106#16 = .error .immediate

/-- R65, R66: an illegal command word raises ILLEGAL_CMD (code 1) and performs nothing. -/
def Obligations.IllegalWordFaults : Prop :=
  ∀ s r rest, Ready s r rest → IllegalWord r.cmd → step s = .next (faulted 1#4 r s)

/-- R66: the operations of the reserved codes 0xA to 0xF raise ILLEGAL_CMD (code 1) and perform nothing. -/
def Obligations.ReservedOperationsFault : Prop :=
  ∀ s r rest (bits : BitVec 12), Ready s r rest →
    exec (.reservedA bits) s = .next (faulted 1#4 r s) ∧
    exec (.reservedB bits) s = .next (faulted 1#4 r s) ∧
    exec (.reservedC bits) s = .next (faulted 1#4 r s) ∧
    exec (.reservedD bits) s = .next (faulted 1#4 r s) ∧
    exec (.reservedE bits) s = .next (faulted 1#4 r s) ∧
    exec (.reservedF bits) s = .next (faulted 1#4 r s)

/-! ### The step (20_memory.md, 60_exceptions.md, 70_reset_and_hazards.md) -/

/-- R51, R60: a step of a block that is not halted runs the operation that the presented command word decodes to. The
second clause is the model's interface and no rule of the spec (logs 1 and 13, DESIGN CHOICE): the word that
`withFetchWord` presents, ahead of the host's other moves, is the one the next step runs. -/
def Obligations.StepRunsDecodedOperation : Prop :=
  (∀ s r rest i, Ready s r rest → decode r.cmd = .ok i → step s = exec i s) ∧
    ∀ (s : State) (w : Word) (i : Instr), s.fault = 0#4 → decode w = .ok i →
      step (s.withFetchWord 16 w.toNat) = exec i (s.withFetchWord 16 w.toNat)

/-- R206, "Nothing happens between operations": with no host move presented a step changes nothing (the model's reading,
log 2). -/
def Obligations.IdleStepChangesNothing : Prop :=
  ∀ s : State, s.fault = 0#4 → s.host = [] → step s = .next s

/-- R28: `CFG` holds `DEV_ADDR` in bits 7:0, `BOUND` in bit 8, and bits 15:9 read 0 in every state. -/
def Obligations.ConfigurationRegisterLayout : Prop :=
  ∀ s : State, s.cfg.extractLsb' 0 8 = s.devAddr ∧ s.cfg.getLsbD 8 = s.bound ∧ s.cfg.extractLsb' 9 7 = 0#7

/-- R30: what the spec says of the state after reset. -/
def Obligations.ResetStateValues : Prop :=
  State.reset.bound = false ∧ State.reset.fault = 0#4 ∧ State.reset.cfg.extractLsb' 9 7 = 0#7 ∧
    readStatus State.reset = .error .resultAbsent ∧ readObuf State.reset = .error .resultAbsent ∧
    readObufLen State.reset = .error .resultAbsent ∧ readRbit State.reset = .error .resultAbsent ∧
    readRcrc State.reset = .error .resultAbsent ∧ readRvolt State.reset = .error .resultAbsent

/-- R30: no rule reads an unspecified register after reset. While `BOUND = 0` and `FAULT = NONE`, replacing `DEV_ADDR`,
`FAULT_CMD` and `CRCREG` by any values changes neither what an operation delivers, nor which fault it raises, nor the
address that a BIND leaves in `DEV_ADDR`, nor the command word that a fault leaves in `FAULT_CMD`. -/
def Obligations.UnspecifiedRegistersUnread : Prop :=
  ∀ s r rest (i : Instr) (a : Byte) (fc c : Word), Ready s r rest → s.bound = false →
    ∃ t u, exec i s = .next t ∧ exec i { s with devAddr := a, faultCmd := fc, crcReg := c } = .next u ∧
      t.results = u.results ∧ t.fault = u.fault ∧ t.bound = u.bound ∧ t.host = u.host ∧
      (t.bound = true → t.devAddr = u.devAddr) ∧ (t.fault ≠ 0#4 → t.faultCmd = u.faultCmd)

/-- R230, R30: a reset presented to the block, halted or not, unbinds it, clears the fault, leaves no result, and takes
nothing else but itself from the host's moves. -/
def Obligations.ResetEventResets : Prop :=
  ∀ s rest, s.host = .reset :: rest →
    ∃ t, step s = .next t ∧ t.bound = false ∧ t.fault = 0#4 ∧
      t.results = { status := none, obuf := none, rbit := none, rcrc := none, rvolt := none } ∧
      t.params = s.params ∧ t.host = rest

/-- R230, R29: reset is the only way to unbind and the only way to clear `FAULT`. A step that does either is the step of
a reset: the host's oldest move, or in a halted block its first reset, the operations before it having no step (R202;
log 3). -/
def Obligations.OnlyResetUnbindsOrClearsFault : Prop :=
  ∀ s t, step s = .next t → (s.bound = true ∧ t.bound = false) ∨ (s.fault ≠ 0#4 ∧ t.fault ≠ s.fault) →
    ∃ ops rest, s.host = ops ++ .reset :: rest ∧ (∀ m ∈ ops, m ≠ HostMove.reset) ∧ (s.fault = 0#4 → ops = []) ∧
      step { s with host := .reset :: rest } = .next t ∧ t.host = rest ∧ t.bound = false ∧ t.fault = 0#4

/-- R202: while `FAULT ≠ NONE` no operation has a step, the block has none unless the host presents a reset, and the only
step it ever has is one that leaves the halted state by that reset. -/
def Obligations.HaltedBlockHasNoStep : Prop :=
  ∀ s : State, s.fault ≠ 0#4 →
    (∀ i : Instr, exec i s = .fault .halted) ∧
    (HostMove.reset ∉ s.host → step s = .fault .halted) ∧
    ∀ t, step s = .next t → HostMove.reset ∈ s.host ∧ t.fault = 0#4 ∧ t.bound = false

/-- The model's reading of a reset behind operations issued to a halted block (log 3): those operations have no step and
change nothing, so the block's step is that reset, as if they had not been issued. -/
def Obligations.ResetBehindIssuedOperationsIsReached : Prop :=
  ∀ (s : State) ops rest, s.fault ≠ 0#4 → (∀ m ∈ ops, m ≠ HostMove.reset) → s.host = ops ++ .reset :: rest →
    ∃ t, step s = .next t ∧ step { s with host := .reset :: rest } = .next t ∧ t.host = rest

/-- R201: a fault entry writes `FAULT` and `FAULT_CMD`, delivers no result field, and keeps every other piece of state;
the request that faulted is done with. -/
def Obligations.FaultEntryIsPrecise : Prop :=
  ∀ s r rest t, Ready s r rest → step s = .next t → t.fault ≠ 0#4 → t = faulted t.fault r s

/-- R200, R203: a halted block has no step for a request; otherwise every request has one, which raises exactly the fault
that the table and its order of priority name, recording its code and the command word and nothing else (R201), and
delivers when they name none. The halt is the first line of R203's prologue; R202 is stated whole by
`HaltedBlockHasNoStep`. -/
def Obligations.FaultCausesAndPriority : Prop :=
  (∀ s (i : Instr), s.fault ≠ 0#4 → exec i s = .fault .halted) ∧
  ∀ s r rest, Ready s r rest →
    ∃ t, step s = .next t ∧ t.fault = firstFault s.bound s.params r ∧
      (t.fault ≠ 0#4 → t = faulted t.fault r s) ∧
      (t.fault = 0#4 → t.faultCmd = s.faultCmd ∧ t.host = rest ∧ ∃ st, readStatus t = .ok st)

/-- R235: a host that keeps its duties never halts a bound block, which stays bound to its address; the block performs
one operation a step. -/
def Obligations.DutiesKeptNeverHalt : Prop :=
  ∀ (s : State) (k : Nat), s.fault = 0#4 → s.bound = true → (∀ m ∈ s.host, KeepsDuties s.params m) →
    k ≤ s.host.length →
    ∃ t, Sys2Proof.core.run k s = .next t ∧ SafeRun k s ∧ t.bound = true ∧ t.devAddr = s.devAddr ∧
      t.host = s.host.drop k

/-- The invariant of the block (R6, R101, R173, R200, R201, R205, R22): every step keeps it, from every state. -/
def Obligations.StepKeepsInvariant : Prop :=
  ∀ s t, Invariant s → step s = .next t → Invariant t

/-- The state after reset meets the invariant. -/
def Obligations.ResetMeetsInvariant : Prop :=
  Invariant State.reset

/-- R6: the implementation parameters are written by nothing. -/
def Obligations.NoStepWritesParameters : Prop :=
  ∀ s t, step s = .next t → t.params = s.params

/-! ### Operands and results (10_state.md, 20_memory.md) -/

/-- R22: an operation that does not fault delivers exactly the fields its rule names, a faulting one none, and reading a
field that holds no value is a fault. -/
def Obligations.ExactlyNamedFieldsDelivered : Prop :=
  ∀ s r rest (i : Instr) t, Ready s r rest → exec i s = .next t →
    (t.fault = 0#4 →
      (∃ v, readStatus t = .ok v) ∧
      ((∃ v, readObuf t = .ok v) ↔ i = .crcapp ∨ i = .bsetv ∨ (∃ e, i = .benout e) ∨ i = .brdv) ∧
      ((∃ v, readRbit t = .ok v) ↔ i = .fval ∨ i = .rval ∨ i = .rerr) ∧
      ((∃ v, readRcrc t = .ok v) ↔ i = .crc) ∧
      ((∃ v, readRvolt t = .ok v) ↔ i = .rparsev)) ∧
    (t.fault ≠ 0#4 → readStatus t = .error .resultAbsent) ∧
    (t.fault ≠ 0#4 ∨ ¬ (i = .crcapp ∨ i = .bsetv ∨ (∃ e, i = .benout e) ∨ i = .brdv) →
      readObuf t = .error .resultAbsent ∧ readObufLen t = .error .resultAbsent) ∧
    (∀ o, readObuf t = .ok o → readObufLen t = .ok o.length) ∧
    (t.fault ≠ 0#4 ∨ ¬ (i = .fval ∨ i = .rval ∨ i = .rerr) → readRbit t = .error .resultAbsent) ∧
    (t.fault ≠ 0#4 ∨ i ≠ .crc → readRcrc t = .error .resultAbsent) ∧
    (t.fault ≠ 0#4 ∨ i ≠ .rparsev → readRvolt t = .error .resultAbsent)

/-- R42: a null buffer is treated exactly as a buffer of length 0, whatever `IBUF` and its length are, and what each
operation answers to it. -/
def Obligations.NullBufferIsEmptyBuffer : Prop :=
  (∀ (i : Instr) (s : State) (r : Request) (rest : List HostMove), r.ibufValid = false →
    exec i { s with host := .op r :: rest } =
      exec i { s with host := .op { r with ibuf := [], ibufValid := true } :: rest }) ∧
  ∀ s r rest, Ready s r rest → r.ibufValid = false →
    (r.len = 0 → Delivers .crc s (okRcrc 0xFFFF#16)) ∧
    (0 < r.len → exec .crc s = .next (faulted 4#4 r s)) ∧
    Delivers .fval s (okRbit false) ∧
    (s.bound = true → Delivers .rval s (okRbit false) ∧ Delivers .rerr s (okRbit true) ∧
      Delivers .rparsev s (okRvolt s.params.parseSentinel))

/-- R67, R21: an operation reads only the operand fields its row names; two requests of one command word that agree on
those run alike, to the whole next state. -/
def Obligations.UnreadOperandsHaveNoEffect : Prop :=
  ∀ (i : Instr) (s : State) (a b : Request) (rest : List HostMove), a.cmd = b.cmd → SameOperands i a b →
    exec i { s with host := .op a :: rest } = exec i { s with host := .op b :: rest }

/-- R51, R67: what an operation delivers and which fault it raises depend on nothing but its request, the state its row
names, and the parameters; earlier results, `FAULT_CMD` and `CRCREG` do not matter. -/
def Obligations.ResultsDependOnlyOnStateRead : Prop :=
  ∀ (i : Instr) (s t : State) (r : Request) (rest rest' : List HostMove), Ready s r rest → Ready t r rest' →
    s.params = t.params → SameStateRead i s t →
    ∃ s' t', exec i s = .next s' ∧ exec i t = .next t' ∧ s'.results = t'.results ∧ s'.fault = t'.fault

/-- R48: an operation other than BIND that does not fault leaves the state as it was, and the same request again gives
the same result; repeating a successful BIND faults. -/
def Obligations.OperationsAreIdempotent : Prop :=
  (∀ s r rest (i : Instr) t, Ready s r rest → (∀ a, i ≠ .bind a) → exec i s = .next t → t.fault = 0#4 →
    Keeps s t ∧ ∃ u, exec i { t with host := s.host } = .next u ∧ u.results = t.results ∧ Keeps s u) ∧
  ∀ s r rest (a : Byte) t, Ready s r rest → exec (.bind a) s = .next t → t.bound = true → t.fault = 0#4 →
    exec (.bind a) { t with host := s.host } = .next (faulted 3#4 r { t with host := s.host })

/-- R41: for every capacity of at least 8, an operation on a request that fits it delivers a buffer that fits it. -/
def Obligations.OutputFitsCapacity : Prop :=
  ∀ (cap : Nat) s r rest (i : Instr) t o, 8 ≤ cap → Ready s r rest → r.fits cap → exec i s = .next t →
    readObuf t = .ok o → o.length ≤ cap

/-! ### Configuration (40_config.md) -/

/-- R100: BIND binds an address of 1..6, answers INVALID_ADDRESS to any other and stays unbound, and faults with
ALREADY_BOUND (code 3) when bound; a word of its operation code with `RSV` or `E` set is illegal. -/
def Obligations.BindOutcomes : Prop :=
  (∀ imm8 : Byte, decode (imm8 ++ 0x03#8) = .ok (.bind imm8)) ∧
  (∀ w : Word, w.extractLsb' 0 4 = 3#4 → w.extractLsb' 5 3 ≠ 0#3 ∨ w.getLsbD 4 = true → ∃ e, decode w = .error e) ∧
  ∀ s r rest (imm8 : Byte), Ready s r rest →
    (s.bound = true → exec (.bind imm8) s = .next (faulted 3#4 r s)) ∧
    (s.bound = false → 1 ≤ imm8.toNat → imm8.toNat ≤ 6 →
      ∃ t, exec (.bind imm8) s = .next t ∧ t.devAddr = imm8 ∧ t.bound = true ∧ t.results = onlyStatus 0#2 ∧
        t.fault = s.fault ∧ t.faultCmd = s.faultCmd ∧ t.params = s.params ∧ t.host = rest) ∧
    (s.bound = false → imm8.toNat < 1 ∨ 6 < imm8.toNat → Delivers (.bind imm8) s (onlyStatus 1#2))

/-- R101: while bound, the address is 1..6 and does not change until reset, and every command frame carries it. -/
def Obligations.BindingInvariant : Prop :=
  (∀ s t, Invariant s → step s = .next t → t.bound = true → 1 ≤ t.devAddr.toNat ∧ t.devAddr.toNat ≤ 6) ∧
  (∀ s t, s.fault = 0#4 → s.host.head? ≠ some .reset → step s = .next t → s.bound = true →
    t.bound = true ∧ t.devAddr = s.devAddr) ∧
  ∀ s r rest t o (e : Bool), Invariant s → Ready s r rest →
    exec .bsetv s = .next t ∨ exec (.benout e) s = .next t ∨ exec .brdv s = .next t → readObuf t = .ok o →
    ∃ a, o.head? = some a ∧ a = s.devAddr ∧ 1 ≤ a.toNat ∧ a.toNat ≤ 6

/-- R102: unbound, the six protocol operations raise NOT_BOUND (code 2) whatever their operands; CRC, CRCAPP and FVAL do
not read `BOUND`; RERR and RPARSEV do not read `DEV_ADDR`. -/
def Obligations.ProtocolOperationsNeedBinding : Prop :=
  (∀ s r rest (e : Bool), Ready s r rest → s.bound = false →
    exec .bsetv s = .next (faulted 2#4 r s) ∧ exec (.benout e) s = .next (faulted 2#4 r s) ∧
    exec .brdv s = .next (faulted 2#4 r s) ∧ exec .rval s = .next (faulted 2#4 r s) ∧
    exec .rerr s = .next (faulted 2#4 r s) ∧ exec .rparsev s = .next (faulted 2#4 r s)) ∧
  (∀ s r rest (i : Instr) (b : Bool), Ready s r rest → i = .crc ∨ i = .crcapp ∨ i = .fval →
    ∃ t, exec i s = .next t ∧ exec i { s with bound := b } = .next { t with bound := b }) ∧
  ∀ s r rest (i : Instr) (a : Byte), Ready s r rest → i = .rerr ∨ i = .rparsev →
    ∃ t, exec i s = .next t ∧ exec i { s with devAddr := a } = .next { t with devAddr := a }

/-! ### The checksum (41_crc.md) -/

/-- R110, R111: the byte step is 8 XOR-shift-reduce steps of the register with the byte XORed into its low end, and it
equals the bit-serial form that takes `b[0]` first. -/
def Obligations.CrcByteIsBitSerial : Prop :=
  (∀ (c : Word) (b : Byte),
    crcByte c b =
      (List.range 8).foldl
        (fun (c : Word) (_ : Nat) => if c.getLsbD 0 then (c >>> 1) ^^^ 0xA001#16 else c >>> 1)
        (c ^^^ b.setWidth 16)) ∧
  ∀ (c : Word) (b : Byte),
    crcByte c b =
      (List.range 8).foldl
        (fun (c : Word) (k : Nat) => (c >>> 1) ^^^ (if c.getLsbD 0 != b.getLsbD k then 0xA001#16 else 0x0000#16)) c

/-- R112, R120: the checksum of nothing, the check value, the two orders of `01 02`, and the W_RDV coverage. -/
def Obligations.KnownChecksums : Prop :=
  crc16 [] = 0xFFFF#16 ∧
    crc16 [0x31#8, 0x32#8, 0x33#8, 0x34#8, 0x35#8, 0x36#8, 0x37#8, 0x38#8, 0x39#8] = 0x4B37#16 ∧
    crc16 [0x01#8, 0x02#8] = 0xE181#16 ∧ crc16 [0x02#8, 0x01#8] = 0x10C1#16 ∧
    crc16 [0x01#8, 0x03#8, 0x15#8, 0x02#8] = 0x897E#16

/-- R26, R45, R113: the engine starts from 0xFFFF whatever `CRCREG` held, takes the bytes in order and each byte's bits
from bit 0 up, ends with the checksum in `CRCREG`, and touches nothing else. -/
def Obligations.EngineTakesBitsLowFirst : Prop :=
  ∀ (s : State) (bytes : List Byte),
    crcEngine s bytes =
      { s with
        crcReg := (bytes.flatMap fun b => (List.range 8).map fun k => b.getLsbD k).foldl
          (fun (c : Word) (bit : Bool) => (c >>> 1) ^^^ (if c.getLsbD 0 != bit then 0xA001#16 else 0x0000#16))
          0xFFFF#16 } ∧
    (crcEngine s bytes).crcReg = crc16 bytes

/-- R114: CRC delivers the checksum of the first `LEN` bytes, and raises LEN_EXCEEDS_BUFFER (code 4) when there are not
so many. -/
def Obligations.CrcOutcomes : Prop :=
  decode 0x0000#16 = .ok .crc ∧
  ∀ s r rest, Ready s r rest →
    (r.len ≤ r.effLen → Delivers .crc s (okRcrc (crc16 (r.buffer.take r.len)))) ∧
    (r.effLen < r.len → exec .crc s = .next (faulted 4#4 r s))

/-- R115: CRCAPP copies the buffer, writes the checksum of the first `LEN` bytes at `LEN` and `LEN + 1`, low byte first,
and raises LEN_EXCEEDS_BUFFER (code 4) or CAPACITY (code 5) when the buffer is too short. -/
def Obligations.CrcappOutcomes : Prop :=
  decode 0x0001#16 = .ok .crcapp ∧
  ∀ s r rest, Ready s r rest →
    (r.len + 2 ≤ r.effLen →
      ∃ o : List Byte, Delivers .crcapp s (okObuf o) ∧ o.length = r.effLen ∧
        ∀ k, o[k]? =
          if k = r.len then some ((crc16 (r.buffer.take r.len)).extractLsb' 0 8)
          else if k = r.len + 1 then some ((crc16 (r.buffer.take r.len)).extractLsb' 8 8)
          else r.buffer[k]?) ∧
    (r.effLen < r.len → exec .crcapp s = .next (faulted 4#4 r s)) ∧
    (r.len ≤ r.effLen → r.effLen < r.len + 2 → exec .crcapp s = .next (faulted 5#4 r s))

/-- R116: FVAL answers 0 under 3 bytes, and else whether the last two bytes are the checksum of the others, low byte
first. -/
def Obligations.FvalOutcomes : Prop :=
  decode 0x0002#16 = .ok .fval ∧
  ∀ s r rest, Ready s r rest →
    (r.effLen < 3 → Delivers .fval s (okRbit false)) ∧
    ∀ (body : List Byte) (lo hi : Byte), r.buffer = body ++ [lo, hi] → 3 ≤ r.effLen →
      Delivers .fval s
        (okRbit (lo == (crc16 body).extractLsb' 0 8 && hi == (crc16 body).extractLsb' 8 8))

/-- R117: CRCAPP on a buffer of exactly `LEN + 2` bytes with `LEN ≥ 1` gives a frame that FVAL accepts; with `LEN = 0` it
gives 2 bytes, which FVAL rejects, and for a longer buffer FVAL need not accept. -/
def Obligations.ChecksumRoundTrip : Prop :=
  (∀ body : List Byte, body ≠ [] →
    FvalGives (body ++ [(crc16 body).extractLsb' 0 8, (crc16 body).extractLsb' 8 8]) true) ∧
  (∀ s r rest, Ready s r rest → 1 ≤ r.len → r.effLen = r.len + 2 →
    ∃ o, Delivers .crcapp s (okObuf o) ∧ FvalGives o true) ∧
  (∀ s r rest, Ready s r rest → r.len = 0 → r.effLen = 2 →
    ∃ o, Delivers .crcapp s (okObuf o) ∧ FvalGives o false) ∧
  ∀ s r rest, Ready s r rest → r.len = 4 →
    r.buffer = [0x01#8, 0x03#8, 0x15#8, 0x02#8, 0x00#8, 0x00#8, 0xAA#8, 0xBB#8] →
    ∃ o, Delivers .crcapp s (okObuf o) ∧ FvalGives o false

/-- R118: flipping any single bit of a frame that FVAL accepts gives one it rejects, and changing any one byte always
changes the checksum; two frames that differ in more bits may both be accepted. -/
def Obligations.SingleBitErrorsDetected : Prop :=
  (∀ (f : List Byte) (k j : Nat) (b : Byte), FvalGives f true → f[k]? = some b → j < 8 →
    FvalGives (f.set k (b ^^^ (1#8 <<< j))) false) ∧
  (∀ (bytes : List Byte) (k : Nat) (b b' : Byte), bytes[k]? = some b → b' ≠ b →
    crc16 (bytes.set k b') ≠ crc16 bytes) ∧
  ∃ f g : List Byte, f.length = g.length ∧ f ≠ g ∧ FvalGives f true ∧ FvalGives g true

/-- R119: appending its checksum gives checksum 0, no other pair of bytes does, and FVAL accepts 3 bytes or more exactly
when the checksum of the whole is 0. -/
def Obligations.ZeroResidue : Prop :=
  (∀ body : List Byte, crc16 (body ++ [(crc16 body).extractLsb' 0 8, (crc16 body).extractLsb' 8 8]) = 0x0000#16) ∧
  (∀ (body : List Byte) (x y : Byte), crc16 (body ++ [x, y]) = 0x0000#16 →
    x = (crc16 body).extractLsb' 0 8 ∧ y = (crc16 body).extractLsb' 8 8) ∧
  ∀ s r rest, Ready s r rest → 3 ≤ r.effLen →
    Delivers .fval s (okRbit (crc16 r.buffer == 0x0000#16))

/-! ### The frame encoder (42_frame_encode.md) -/

/-- R140 (`VOLT_ARITH = exact`): the voltage code is ten times the voltage rounded toward zero. -/
def Obligations.ExactVoltageCodeTruncates : Prop :=
  ∀ vin : Rat, ∃ q : Int, voltageCode .exact vin = some q ∧
    (0 ≤ vin → (q : Rat) ≤ 10 * vin ∧ 10 * vin < q + 1) ∧
    (vin ≤ 0 → 10 * vin ≤ (q : Rat) ∧ (q : Rat) - 1 < 10 * vin)

/-- R140 (`VOLT_ARITH = binary64`; 93_implementation_defined.md G8): `fl64` answers every value below the overflow
threshold `2^1024 - 2^970` and no other; its answer is a binary64 value, no binary64 value is nearer, and where another
is as near the answer is the even one; on a binary64 value it is the identity. -/
def Obligations.Fl64RoundsToNearest : Prop :=
  (∀ x : Rat, fl64 x = none ↔ (2 : Rat) ^ 1024 - 2 ^ 970 ≤ |x|) ∧
    (∀ x y : Rat, fl64 x = some y → IsBinary64 y ∧ ∀ z, IsBinary64 z →
      |y - x| ≤ |z - x| ∧ (z ≠ y → |z - x| = |y - x| → IsEvenBinary64 y)) ∧
    ∀ z : Rat, IsBinary64 z → fl64 z = some z

/-- R140 (`VOLT_ARITH = binary64`), R141: the voltage code is the rounded product of the rounded voltage and 10, itself
rounded toward zero. There is none exactly where a rounding is infinite, and then BSETV faults under every policy: for the
voltage R141 says so, for the product it is the model's reading (log 12, DEDUCED). -/
def Obligations.Binary64VoltageCode : Prop :=
  (∀ vin : Rat, voltageCode .binary64 vin = none ↔
    fl64 vin = none ∨ ∃ v, fl64 vin = some v ∧ fl64 (v * 10) = none) ∧
  (∀ vin v x : Rat, fl64 vin = some v → fl64 (v * 10) = some x →
    voltageCode .binary64 vin = some (trunc x) ∧
    (0 ≤ x → (trunc x : Rat) ≤ x ∧ x < trunc x + 1) ∧
    (x ≤ 0 → x ≤ trunc x ∧ (trunc x : Rat) - 1 < x)) ∧
  ∀ s r rest, Ready s r rest → s.bound = true → s.params.voltArith = .binary64 →
    fl64 r.vin = none ∨ (∃ v, fl64 r.vin = some v ∧ fl64 (v * 10) = none) →
    exec .bsetv s = .next (faulted 6#4 r s)

/-- R142: bound, BSETV delivers the 8-byte `W_SETV` frame of the encoded voltage, or raises VOLTAGE_UNENCODABLE (code 6)
where R141 says so; unbound it raises NOT_BOUND (code 2). -/
def Obligations.BsetvOutcomes : Prop :=
  decode 0x0004#16 = .ok .bsetv ∧
  ∀ s r rest, Ready s r rest →
    (s.bound = false → exec .bsetv s = .next (faulted 2#4 r s)) ∧
    (s.bound = true → encodedVoltage s.params r.vin = none → exec .bsetv s = .next (faulted 6#4 r s)) ∧
    ∀ q body, s.bound = true → encodedVoltage s.params r.vin = some q →
      body = [s.devAddr, 0x10#8, 0x15#8, 0x02#8, q.extractLsb' 0 8, q.extractLsb' 8 8] →
      Delivers .bsetv s (okObuf (body ++ [(crc16 body).extractLsb' 0 8, (crc16 body).extractLsb' 8 8]))

/-- R140, R141: the code packed for a voltage whose code lies in 0..65535, and what each policy makes of one that does
not; an infinite binary64 value faults under every policy (log 12). -/
def Obligations.OutOfRangeVoltagePolicy : Prop :=
  ∀ (p : Params) (vin : Rat),
    (voltageCode p.voltArith vin = none → encodedVoltage p vin = none) ∧
    ∀ q : Int, voltageCode p.voltArith vin = some q →
      (0 ≤ q → q ≤ 65535 → ∃ w : Word, encodedVoltage p vin = some w ∧ (w.toNat : Int) = q) ∧
      (q < 0 ∨ 65535 < q → p.voltOorPolicy = .fault → encodedVoltage p vin = none) ∧
      (q < 0 → p.voltOorPolicy = .clamp → encodedVoltage p vin = some 0x0000#16) ∧
      (65535 < q → p.voltOorPolicy = .clamp → encodedVoltage p vin = some 0xFFFF#16) ∧
      (q < 0 ∨ 65535 < q → p.voltOorPolicy = .wrap →
        ∃ w : Word, encodedVoltage p vin = some w ∧ (w.toNat : Int) = q % 65536)

/-- R143: BSETV does not compare `VIN` with 0 or 60.0: under exact arithmetic every voltage above 60.0 and below 6553.6,
and every one between -0.1 and 0, is encoded and delivered in an 8-byte frame. -/
def Obligations.BsetvHasNoRangeCheck : Prop :=
  ∀ s r rest, Ready s r rest → s.bound = true → s.params.voltArith = .exact →
    -1 / 10 < r.vin → r.vin < 65536 / 10 → ∃ o : List Byte, Delivers .bsetv s (okObuf o) ∧ o.length = 8

/-- R145, R146: BENOUT delivers the 7-byte `W_ENOUT` frame; the disable payload is 0x00 and the enable payload the
parameter, which is not 0x00. -/
def Obligations.BenoutOutcomes : Prop :=
  decode 0x0005#16 = .ok (.benout false) ∧ decode 0x0015#16 = .ok (.benout true) ∧
  (∀ p : Params, p.wf → enableByte p true = p.enableTrueByte ∧ enableByte p true ≠ 0x00#8 ∧
    enableByte p false = 0x00#8) ∧
  ∀ s r rest (e : Bool), Ready s r rest →
    (s.bound = false → exec (.benout e) s = .next (faulted 2#4 r s)) ∧
    ∀ body, s.bound = true →
      body = [s.devAddr, 0x10#8, 0x11#8, 0x01#8, if e then s.params.enableTrueByte else 0x00#8] →
      Delivers (.benout e) s (okObuf (body ++ [(crc16 body).extractLsb' 0 8, (crc16 body).extractLsb' 8 8]))

/-- R148: BRDV delivers the 6-byte `W_RDV` frame, its checksum over the first 4 bytes only. -/
def Obligations.BrdvOutcomes : Prop :=
  decode 0x0006#16 = .ok .brdv ∧
  ∀ s r rest, Ready s r rest →
    (s.bound = false → exec .brdv s = .next (faulted 2#4 r s)) ∧
    ∀ body, s.bound = true → body = [s.devAddr, 0x03#8, 0x15#8, 0x02#8] →
      Delivers .brdv s (okObuf (body ++ [(crc16 body).extractLsb' 0 8, (crc16 body).extractLsb' 8 8]))

/-- R149: BRDV's frame equals CRCAPP applied to the 6-byte shape with two padding zero bytes and `LEN = 4`. -/
def Obligations.ReadFrameEqualsAppendedShape : Prop :=
  ∀ s r rest t u v rest', Ready s r rest → s.bound = true → Ready t u rest' →
    u.buffer = [s.devAddr, 0x03#8, 0x15#8, 0x02#8, 0x00#8, 0x00#8] → u.len = 4 →
    (Delivers .brdv s (okObuf v) ↔ Delivers .crcapp t (okObuf v))

/-- R150: every frame that BSETV, BENOUT or BRDV delivers is accepted by FVAL, and by RVAL under the same `DEV_ADDR`. -/
def Obligations.BuiltFramesValidate : Prop :=
  ∀ s r rest (e : Bool) o, Invariant s → Ready s r rest →
    Delivers .bsetv s (okObuf o) ∨ Delivers (.benout e) s (okObuf o) ∨ Delivers .brdv s (okObuf o) →
    FvalGives o true ∧
      (∀ t u rest', Ready t u rest' → t.bound = true → t.devAddr = s.devAddr → u.buffer = o →
        Delivers .rval t (okRbit true)) ∧
      ∃ a, o.head? = some a ∧ a = s.devAddr ∧ 1 ≤ a.toNat ∧ a.toNat ≤ 6

/-- R151: RPARSEV of a response of at least 8 bytes that carries BSETV's bytes 4 and 5 reads back the voltage code over
ten; under `VOLT_ARITH = exact` only, and for a voltage of at least 0, that is within a tenth of the voltage. -/
def Obligations.VoltageRoundTrip : Prop :=
  ∀ s r rest q o, Ready s r rest → s.bound = true → voltageCode s.params.voltArith r.vin = some q →
    0 ≤ q → q ≤ 65535 → Delivers .bsetv s (okObuf o) →
    (∀ t u rest', Ready t u rest' → t.bound = true → 8 ≤ u.effLen → u.buffer[4]? = o[4]? →
      u.buffer[5]? = o[5]? → Delivers .rparsev t (okRvolt ((q : Rat) / 10))) ∧
    (s.params.voltArith = .exact → 0 ≤ r.vin → r.vin - 1 / 10 < (q : Rat) / 10 ∧ (q : Rat) / 10 ≤ r.vin)

/-! ### The frame decoder (43_frame_decode.md) -/

/-- R170: RVAL answers 0 to a null or short response, to another leading byte than `DEV_ADDR` and to a wrong checksum,
and 1 to every other; unbound it raises NOT_BOUND (code 2). -/
def Obligations.RvalOutcomes : Prop :=
  decode 0x0007#16 = .ok .rval ∧
  ∀ s r rest, Ready s r rest →
    (s.bound = false → exec .rval s = .next (faulted 2#4 r s)) ∧
    (s.bound = true → r.ibufValid = false ∨ r.effLen < 3 → Delivers .rval s (okRbit false)) ∧
    ∀ (a : Byte) (body : List Byte) (lo hi : Byte), s.bound = true → r.buffer = a :: (body ++ [lo, hi]) →
      Delivers .rval s
        (okRbit (a == s.devAddr && (lo == (crc16 (a :: body)).extractLsb' 0 8 &&
          hi == (crc16 (a :: body)).extractLsb' 8 8)))

/-- R171: a response whose first byte is not the bound address is rejected even where FVAL accepts it. -/
def Obligations.AddressMismatchRejected : Prop :=
  (∀ s r rest a body, Ready s r rest → s.bound = true → r.buffer = a :: body → a ≠ s.devAddr →
    Delivers .rval s (okRbit false)) ∧
  FvalGives [0x02#8, 0x03#8, 0x15#8, 0x02#8, 0xFA#8, 0x00#8, 0xA2#8, 0x95#8] true

/-- R176: a response is meaningful (its leading byte is the bound address and its checksum validates) exactly when RVAL
answers 1. -/
def Obligations.MeaningfulResponseIsRval : Prop :=
  ∀ s r rest, Ready s r rest → s.bound = true →
    (Delivers .rval s (okRbit true) ↔ r.buffer.head? = some s.devAddr ∧ Delivers .fval s (okRbit true))

/-- R172: RERR answers 1 to a response under `ERR_MIN_LEN` bytes, and else bit 7 of byte 1; unbound it raises NOT_BOUND
(code 2). -/
def Obligations.RerrOutcomes : Prop :=
  decode 0x0008#16 = .ok .rerr ∧
  ∀ s r rest, Ready s r rest →
    (s.bound = false → exec .rerr s = .next (faulted 2#4 r s)) ∧
    (s.bound = true → r.effLen < s.params.errMinLen.toNat → Delivers .rerr s (okRbit true)) ∧
    ∀ b : Byte, s.bound = true → s.params.errMinLen.toNat ≤ r.effLen → r.buffer[1]? = some b →
      Delivers .rerr s (okRbit (b.getLsbD 7))

/-- R173: RPARSEV answers the sentinel under 8 bytes, and else bytes 4 and 5, little-endian, over ten; only the sentinel
is negative; unbound it raises NOT_BOUND (code 2). -/
def Obligations.RparsevOutcomes : Prop :=
  decode 0x0009#16 = .ok .rparsev ∧
  ∀ s r rest, Ready s r rest →
    (s.bound = false → exec .rparsev s = .next (faulted 2#4 r s)) ∧
    (s.bound = true → r.effLen < 8 → Delivers .rparsev s (okRvolt s.params.parseSentinel)) ∧
    (∀ lo hi : Byte, s.bound = true → 8 ≤ r.effLen → r.buffer[4]? = some lo → r.buffer[5]? = some hi →
      Delivers .rparsev s (okRvolt (((lo.toNat + 256 * hi.toNat : Nat) : Rat) / 10))) ∧
    ∀ v, Invariant s → s.bound = true → Delivers .rparsev s (okRvolt v) → (v < 0 ↔ r.effLen < 8)

/-- R174: a reading is the exact tenth of its code, in 0.0..6553.5, and re-encodes to that code. -/
def Obligations.ReadingIsExactTenth : Prop :=
  ∀ raw : Word, readingValue raw = (raw.toNat : Rat) / 10 ∧ 0 ≤ readingValue raw ∧
    readingValue raw ≤ 65535 / 10 ∧ voltageCode .exact (readingValue raw) = some (raw.toNat : Int)

/-- R175: the decoder checks nothing else. RERR reads only bit 7 of byte 1 of a long enough response, RPARSEV only bytes 4
and 5; RVAL accepts every function code, every payload and every length from 3 on. -/
def Obligations.DecoderChecksNothingElse : Prop :=
  (∀ s r rest t u rest' (b c : Byte), Ready s r rest → Ready t u rest' → s.bound = true → t.bound = true →
    3 ≤ r.effLen → 3 ≤ u.effLen → r.buffer[1]? = some b → u.buffer[1]? = some c → b.getLsbD 7 = c.getLsbD 7 →
    ∃ v, Delivers .rerr s (okRbit v) ∧ Delivers .rerr t (okRbit v)) ∧
  (∀ s r rest t u rest', Ready s r rest → Ready t u rest' → s.bound = true → t.bound = true →
    8 ≤ r.effLen → 8 ≤ u.effLen → r.buffer[4]? = u.buffer[4]? → r.buffer[5]? = u.buffer[5]? →
    ∃ v, Delivers .rparsev s (okRvolt v) ∧ Delivers .rparsev t (okRvolt v)) ∧
  ∀ s r rest payload, Ready s r rest → s.bound = true →
    r.buffer = (s.devAddr :: payload) ++
      [(crc16 (s.devAddr :: payload)).extractLsb' 0 8, (crc16 (s.devAddr :: payload)).extractLsb' 8 8] →
    Delivers .rval s (okRbit true)
end

