-- ==== Sys2Proof/Laws/Crc.lean ====
section
/-! SUPPORT. The small lemmas of the checksum, the CRC engine, the input buffer and the frames. -/

namespace Sys2Proof

/-- The effective buffer has the effective length (20_memory.md R42). -/
@[simp] theorem Request.buffer_length (r : Request) : r.buffer.length = r.effLen := by
  unfold Request.buffer Request.effLen Request.ibufLen
  split <;> rfl

end Sys2Proof

namespace Sys2Proof.Machine

@[simp] theorem crc16_nil : crc16 [] = crcInit := rfl

/-- The checksum takes the bytes in from the left (41_crc.md R112). -/
theorem crc16_append (a b : List Byte) : crc16 (a ++ b) = b.foldl crcByte (crc16 a) := by
  simp [crc16, List.foldl_append]

/-- Feeding bytes to the engine changes `CRCREG` alone. -/
theorem foldl_crcFeed (bytes : List Byte) (s : State) :
    bytes.foldl crcFeed s = { s with crcReg := bytes.foldl crcByte s.crcReg } := by
  induction bytes generalizing s with
  | nil => rfl
  | cons b bytes ih => simp [List.foldl_cons, ih, crcFeed]

/-- Everything the CRC engine does: `CRCREG` becomes the checksum (10_state.md R26; 41_crc.md R113). -/
theorem crcEngine_eq (s : State) (bytes : List Byte) :
    crcEngine s bytes = { s with crcReg := crc16 bytes } := by
  simp [crcEngine, foldl_crcFeed, crc16]

/-- The covered bytes of a frame are all but its last two (30_encoding.md R68). -/
@[simp] theorem covered_append (body : List Byte) (lo hi : Byte) : covered (body ++ [lo, hi]) = body := by
  simp [covered]

/-- The trailer of a frame is compared byte for byte, low byte first (30_encoding.md R68). -/
@[simp] theorem trailerMatches_append (body : List Byte) (lo hi : Byte) (c : Word) :
    trailerMatches (body ++ [lo, hi]) c = (lo == lo8 c && hi == hi8 c) := by
  simp [trailerMatches, le16]

/-- A buffer of two bytes or more is a body and two trailing bytes. -/
theorem exists_body_trailer (f : List Byte) (h : 2 ≤ f.length) :
    ∃ body lo hi, f = body ++ [lo, hi] := by
  match hr : f.reverse, h with
  | [], h => simp_all
  | [x], h =>
    have := congrArg List.length hr
    simp at this
    omega
  | hi :: lo :: rest, _ =>
    refine ⟨rest.reverse, lo, hi, ?_⟩
    have := congrArg List.reverse hr
    simpa using this

end Sys2Proof.Machine
end

