-- ==== Sys2Proof/Laws/State.lean ====
section
/-! SUPPORT. Every field after every update of the state, and the parameters at reset. -/

namespace Sys2Proof

/-- The sentinel at reset is negative, whatever the seed (43_frame_decode.md R173). -/
theorem Config.parseSentinel_neg : Config.parseSentinel < 0 := by
  unfold Config.parseSentinel
  have h1 : (0 : Rat) < (Config.sentinelSeed.1 : Rat) + 1 := by positivity
  have h2 : (0 : Rat) < (Config.sentinelSeed.2 : Rat) + 1 := by positivity
  exact neg_neg_of_pos (div_pos h1 h2)

/-- The parameters at reset lie in the ranges of 00_scope.md R6. -/
theorem Config.defaults_wf : Config.defaults.wf :=
  ⟨by decide, Config.parseSentinel_neg⟩

end Sys2Proof

namespace Sys2Proof.Machine

variable (code : FaultCode) (r : Request) (res : Results) (rest : List HostMove) (b : Byte) (n w : Nat) (s : State)

@[simp] theorem Results.absent_status : Results.absent.status = none := rfl
@[simp] theorem Results.absent_obuf : Results.absent.obuf = none := rfl
@[simp] theorem Results.absent_rbit : Results.absent.rbit = none := rfl
@[simp] theorem Results.absent_rcrc : Results.absent.rcrc = none := rfl
@[simp] theorem Results.absent_rvolt : Results.absent.rvolt = none := rfl

@[simp] theorem okResults_status : okResults.status = some 0#2 := rfl
@[simp] theorem okResults_obuf : okResults.obuf = none := rfl
@[simp] theorem okResults_rbit : okResults.rbit = none := rfl
@[simp] theorem okResults_rcrc : okResults.rcrc = none := rfl
@[simp] theorem okResults_rvolt : okResults.rvolt = none := rfl

@[simp] theorem enterFault_devAddr : (enterFault code r s).devAddr = s.devAddr := rfl
@[simp] theorem enterFault_bound : (enterFault code r s).bound = s.bound := rfl
@[simp] theorem enterFault_fault : (enterFault code r s).fault = faultValue code := rfl
@[simp] theorem enterFault_faultCmd : (enterFault code r s).faultCmd = r.cmd := rfl
@[simp] theorem enterFault_crcReg : (enterFault code r s).crcReg = s.crcReg := rfl
@[simp] theorem enterFault_results : (enterFault code r s).results = Results.absent := rfl
@[simp] theorem enterFault_host : (enterFault code r s).host = s.host.tail := rfl
@[simp] theorem enterFault_params : (enterFault code r s).params = s.params := rfl
@[simp] theorem enterFault_freeTick : (enterFault code r s).freeTick = s.freeTick := rfl

@[simp] theorem finish_devAddr : (finish res s).devAddr = s.devAddr := rfl
@[simp] theorem finish_bound : (finish res s).bound = s.bound := rfl
@[simp] theorem finish_fault : (finish res s).fault = s.fault := rfl
@[simp] theorem finish_faultCmd : (finish res s).faultCmd = s.faultCmd := rfl
@[simp] theorem finish_results : (finish res s).results = res := rfl
@[simp] theorem finish_host : (finish res s).host = s.host.tail := rfl
@[simp] theorem finish_params : (finish res s).params = s.params := rfl
@[simp] theorem finish_freeTick : (finish res s).freeTick = s.freeTick + 1 := rfl

@[simp] theorem resetBlock_devAddr : (resetBlock s rest).devAddr = State.reset.devAddr := rfl
@[simp] theorem resetBlock_bound : (resetBlock s rest).bound = false := rfl
@[simp] theorem resetBlock_fault : (resetBlock s rest).fault = 0#4 := rfl
@[simp] theorem resetBlock_faultCmd : (resetBlock s rest).faultCmd = State.reset.faultCmd := rfl
@[simp] theorem resetBlock_crcReg : (resetBlock s rest).crcReg = State.reset.crcReg := rfl
@[simp] theorem resetBlock_results : (resetBlock s rest).results = Results.absent := rfl
@[simp] theorem resetBlock_host : (resetBlock s rest).host = rest := rfl
@[simp] theorem resetBlock_params : (resetBlock s rest).params = s.params := rfl
@[simp] theorem resetBlock_freeTick : (resetBlock s rest).freeTick = s.freeTick := rfl

@[simp] theorem crcFeed_devAddr : (crcFeed s b).devAddr = s.devAddr := rfl
@[simp] theorem crcFeed_bound : (crcFeed s b).bound = s.bound := rfl
@[simp] theorem crcFeed_fault : (crcFeed s b).fault = s.fault := rfl
@[simp] theorem crcFeed_faultCmd : (crcFeed s b).faultCmd = s.faultCmd := rfl
@[simp] theorem crcFeed_crcReg : (crcFeed s b).crcReg = crcByte s.crcReg b := rfl
@[simp] theorem crcFeed_results : (crcFeed s b).results = s.results := rfl
@[simp] theorem crcFeed_host : (crcFeed s b).host = s.host := rfl
@[simp] theorem crcFeed_params : (crcFeed s b).params = s.params := rfl
@[simp] theorem crcFeed_freeTick : (crcFeed s b).freeTick = s.freeTick := rfl

@[simp] theorem withFetchWord_devAddr : (s.withFetchWord n w).devAddr = s.devAddr := rfl
@[simp] theorem withFetchWord_bound : (s.withFetchWord n w).bound = s.bound := rfl
@[simp] theorem withFetchWord_fault : (s.withFetchWord n w).fault = s.fault := rfl
@[simp] theorem withFetchWord_faultCmd : (s.withFetchWord n w).faultCmd = s.faultCmd := rfl
@[simp] theorem withFetchWord_crcReg : (s.withFetchWord n w).crcReg = s.crcReg := rfl
@[simp] theorem withFetchWord_results : (s.withFetchWord n w).results = s.results := rfl
@[simp] theorem withFetchWord_params : (s.withFetchWord n w).params = s.params := rfl
@[simp] theorem withFetchWord_freeTick : (s.withFetchWord n w).freeTick = s.freeTick := rfl

end Sys2Proof.Machine
end

