-- ==== Sys2Proof/Laws/Ops.lean ====
section
/-! SUPPORT. One lemma for each shared operation that says once everything it can do, and the inversion of `exec` and
`step`, for the proofs to cite. -/

namespace Sys2Proof.Machine

/-- The prologue on a presented request runs the operation (60_exceptions.md R203). -/
theorem operate_ready {s : State} {r : Request} {rest : List HostMove} (body : Request → StepOutcome)
    (hf : s.fault = 0#4) (hh : s.host = .op r :: rest) : operate s body = body r := by
  simp [operate, faultNone, hf, hh]

/-- The prologue of a halted block (60_exceptions.md R202). -/
theorem operate_halted {s : State} (body : Request → StepOutcome) (hf : s.fault ≠ 0#4) :
    operate s body = .fault .halted := by
  simp [operate, faultNone, hf]

/-- Everything the prologue can do when it answers a next state. -/
theorem operate_next {s t : State} {body : Request → StepOutcome} (h : operate s body = .next t) :
    s.fault = 0#4 ∧ ∃ r rest, s.host = .op r :: rest ∧ body r = .next t := by
  unfold operate at h
  split at h
  · cases h
  · rename_i hf
    refine ⟨by simpa [faultNone] using hf, ?_⟩
    split at h
    · rename_i r rest hh
      exact ⟨r, rest, hh, h⟩
    · cases h

theorem needBound_of_bound {s : State} (r : Request) (body : StepOutcome) (h : s.bound = true) :
    needBound r s body = body := by
  simp [needBound, h]

theorem needBound_of_unbound {s : State} (r : Request) (body : StepOutcome) (h : s.bound = false) :
    needBound r s body = .next (enterFault .notBound r s) := by
  simp [needBound, raiseFault, h]

/-- Everything the binding check can do (40_config.md R102). -/
theorem needBound_next {s t : State} {r : Request} {body : StepOutcome} (h : needBound r s body = .next t) :
    (s.bound = true ∧ body = .next t) ∨ (s.bound = false ∧ t = enterFault .notBound r s) := by
  cases hb : s.bound with
  | true => exact .inl ⟨rfl, by rwa [needBound_of_bound r body hb] at h⟩
  | false =>
    rw [needBound_of_unbound r body hb] at h
    exact .inr ⟨rfl, by injection h with h; exact h.symm⟩

@[simp] theorem deliver_next {res : Results} {s t : State} : deliver res s = .next t ↔ finish res s = t := by
  simp [deliver]

@[simp] theorem raiseFault_next {code : FaultCode} {r : Request} {s t : State} :
    raiseFault code r s = .next t ↔ enterFault code r s = t := by
  simp [raiseFault]

/-- Rounding toward zero is rounding down from zero on (00_scope.md R10). -/
theorem trunc_of_nonneg {x : Rat} (h : 0 ≤ x) : trunc x = ⌊x⌋ := by
  rw [trunc, Rat.floor_def', Int.tdiv_eq_ediv_of_nonneg (Rat.num_nonneg.2 h)]

/-- Rounding toward zero treats both signs alike (00_scope.md R10). -/
theorem trunc_neg (x : Rat) : trunc (-x) = -trunc x := by
  simp [trunc]

/-- `CRCREG` before the end of an operation has no trace after it (10_state.md R26). -/
@[simp] theorem finish_withCrcReg (res : Results) (s : State) (c : Word) :
    finish res { s with crcReg := c } = finish res s := rfl

/-- Everything the encoder's last part does: the frame with its checksum is delivered. -/
theorem deliverFrame_eq (body : List Byte) (s : State) :
    deliverFrame body s = .next (finish { okResults with obuf := some (frame body (crc16 body)) } s) := by
  simp [deliverFrame, crcEngine_eq, deliver]

/-- What a halted block goes on with: the moves after the first reset (60_exceptions.md R202). -/
theorem afterReset_eq_some {l rest : List HostMove} :
    afterReset l = some rest ↔ ∃ ops, (∀ m ∈ ops, m ≠ HostMove.reset) ∧ l = ops ++ .reset :: rest := by
  induction l with
  | nil => simp [afterReset]
  | cons m l ih =>
    cases m with
    | op r =>
      simp only [afterReset, ih]
      constructor
      · rintro ⟨ops, h, rfl⟩
        exact ⟨.op r :: ops, by simpa using h, rfl⟩
      · rintro ⟨ops, h, hl⟩
        cases ops with
        | nil => simp at hl
        | cons m ops =>
          simp only [List.cons_append, List.cons.injEq] at hl
          exact ⟨ops, fun m hm => h m (List.mem_cons_of_mem _ hm), hl.2⟩
    | reset =>
      simp only [afterReset, Option.some.injEq]
      constructor
      · rintro rfl
        exact ⟨[], by simp, rfl⟩
      · rintro ⟨ops, h, hl⟩
        cases ops with
        | nil => simpa using hl
        | cons m ops =>
          simp only [List.cons_append, List.cons.injEq] at hl
          exact absurd hl.1.symm (h m (by simp))

theorem afterReset_eq_none {l : List HostMove} : afterReset l = none ↔ HostMove.reset ∉ l := by
  induction l with
  | nil => simp [afterReset]
  | cons m l ih => cases m <;> simp [afterReset, ih]

/-- Everything the step of a halted block can do (60_exceptions.md R202). -/
theorem stepHalted_next {s t : State} (h : stepHalted s = .next t) :
    ∃ rest, afterReset s.host = some rest ∧ t = resetBlock s rest := by
  unfold stepHalted at h
  split at h
  · rename_i rest hr
    exact ⟨rest, hr, by injection h with h; exact h.symm⟩
  · cases h

/-- An illegal command word on a presented request (30_encoding.md R65). -/
theorem illegalCommand_next {s t : State} (h : illegalCommand s = .next t) :
    s.fault = 0#4 ∧ ∃ r rest, s.host = .op r :: rest ∧ t = enterFault .illegalCmd r s := by
  obtain ⟨hf, r, rest, hh, h⟩ := operate_next h
  exact ⟨hf, r, rest, hh, (raiseFault_next.1 h).symm⟩

/-- Everything an operation can do when it answers a next state: it was presented to a block that is not halted, and it
takes a fault, or binds the address, or delivers with everything else kept. -/
theorem exec_next {i : Instr} {s t : State} (h : exec i s = .next t) :
    s.fault = 0#4 ∧ ∃ r rest, s.host = .op r :: rest ∧
      ((∃ code, t = enterFault code r s) ∨
       (∃ a, i = .bind a ∧ s.bound = false ∧ addrMin ≤ a ∧ a ≤ addrMax ∧
          t = finish okResults { s with devAddr := a, bound := true }) ∨
       ∃ res, t = finish res s) := by
  cases i with
  | crc =>
    obtain ⟨hf, r, rest, hh, h⟩ := operate_next h
    refine ⟨hf, r, rest, hh, ?_⟩
    split at h
    · exact .inl ⟨_, (raiseFault_next.1 h).symm⟩
    · rw [crcEngine_eq] at h
      exact .inr (.inr ⟨_, (deliver_next.1 h).symm⟩)
  | crcapp =>
    obtain ⟨hf, r, rest, hh, h⟩ := operate_next h
    refine ⟨hf, r, rest, hh, ?_⟩
    split at h
    · exact .inl ⟨_, (raiseFault_next.1 h).symm⟩
    · split at h
      · exact .inl ⟨_, (raiseFault_next.1 h).symm⟩
      · rw [crcEngine_eq] at h
        exact .inr (.inr ⟨_, (deliver_next.1 h).symm⟩)
  | fval =>
    obtain ⟨hf, r, rest, hh, h⟩ := operate_next h
    refine ⟨hf, r, rest, hh, ?_⟩
    split at h
    · exact .inr (.inr ⟨_, (deliver_next.1 h).symm⟩)
    · rw [crcEngine_eq] at h
      exact .inr (.inr ⟨_, (deliver_next.1 h).symm⟩)
  | bind a =>
    obtain ⟨hf, r, rest, hh, h⟩ := operate_next h
    refine ⟨hf, r, rest, hh, ?_⟩
    split at h
    · exact .inl ⟨_, (raiseFault_next.1 h).symm⟩
    · rename_i hb
      split at h
      · rename_i ha
        exact .inr (.inl ⟨a, rfl, by simpa using hb, ha.1, ha.2, (deliver_next.1 h).symm⟩)
      · exact .inr (.inr ⟨_, (deliver_next.1 h).symm⟩)
  | bsetv =>
    obtain ⟨hf, r, rest, hh, h⟩ := operate_next h
    refine ⟨hf, r, rest, hh, ?_⟩
    obtain ⟨-, h⟩ | ⟨-, h⟩ := needBound_next h
    · split at h
      · exact .inl ⟨_, (raiseFault_next.1 h).symm⟩
      · rw [deliverFrame_eq] at h
        exact .inr (.inr ⟨_, by injection h with h; exact h.symm⟩)
    · exact .inl ⟨_, h⟩
  | benout e =>
    obtain ⟨hf, r, rest, hh, h⟩ := operate_next h
    refine ⟨hf, r, rest, hh, ?_⟩
    obtain ⟨-, h⟩ | ⟨-, h⟩ := needBound_next h
    · rw [deliverFrame_eq] at h
      exact .inr (.inr ⟨_, by injection h with h; exact h.symm⟩)
    · exact .inl ⟨_, h⟩
  | brdv =>
    obtain ⟨hf, r, rest, hh, h⟩ := operate_next h
    refine ⟨hf, r, rest, hh, ?_⟩
    obtain ⟨-, h⟩ | ⟨-, h⟩ := needBound_next h
    · rw [deliverFrame_eq] at h
      exact .inr (.inr ⟨_, by injection h with h; exact h.symm⟩)
    · exact .inl ⟨_, h⟩
  | rval =>
    obtain ⟨hf, r, rest, hh, h⟩ := operate_next h
    refine ⟨hf, r, rest, hh, ?_⟩
    obtain ⟨-, h⟩ | ⟨-, h⟩ := needBound_next h
    · split at h
      · exact .inr (.inr ⟨_, (deliver_next.1 h).symm⟩)
      · split at h
        · exact .inr (.inr ⟨_, (deliver_next.1 h).symm⟩)
        · rw [crcEngine_eq] at h
          exact .inr (.inr ⟨_, (deliver_next.1 h).symm⟩)
    · exact .inl ⟨_, h⟩
  | rerr =>
    obtain ⟨hf, r, rest, hh, h⟩ := operate_next h
    refine ⟨hf, r, rest, hh, ?_⟩
    obtain ⟨-, h⟩ | ⟨-, h⟩ := needBound_next h
    · exact .inr (.inr ⟨_, (deliver_next.1 h).symm⟩)
    · exact .inl ⟨_, h⟩
  | rparsev =>
    obtain ⟨hf, r, rest, hh, h⟩ := operate_next h
    refine ⟨hf, r, rest, hh, ?_⟩
    obtain ⟨-, h⟩ | ⟨-, h⟩ := needBound_next h
    · exact .inr (.inr ⟨_, (deliver_next.1 h).symm⟩)
    · exact .inl ⟨_, h⟩
  | reservedA bits | reservedB bits | reservedC bits | reservedD bits | reservedE bits | reservedF bits =>
    obtain ⟨hf, r, rest, hh, h⟩ := illegalCommand_next h
    exact ⟨hf, r, rest, hh, .inl ⟨_, h⟩⟩

/-- Everything a step can do when it answers a next state. -/
theorem step_next {s t : State} (h : step s = .next t) :
    (∃ rest, s.fault ≠ 0#4 ∧ afterReset s.host = some rest ∧ t = resetBlock s rest) ∨
    (s.fault = 0#4 ∧ s.host = [] ∧ t = s) ∨
    (∃ rest, s.fault = 0#4 ∧ s.host = .reset :: rest ∧ t = resetBlock s rest) ∨
    (∃ r rest i, s.fault = 0#4 ∧ s.host = .op r :: rest ∧ decode r.cmd = .ok i ∧ exec i s = .next t) ∨
    ∃ r rest e, s.fault = 0#4 ∧ s.host = .op r :: rest ∧ decode r.cmd = .error e ∧
      t = enterFault .illegalCmd r s := by
  unfold step at h
  split at h
  · rename_i hf
    obtain ⟨rest, hr, ht⟩ := stepHalted_next h
    exact .inl ⟨rest, by simpa [faultNone] using hf, hr, ht⟩
  · rename_i hf
    have hf : s.fault = 0#4 := by simpa [faultNone] using hf
    split at h
    · rename_i hh
      exact .inr (.inl ⟨hf, hh, by injection h with h; exact h.symm⟩)
    · rename_i rest hh
      exact .inr (.inr (.inl ⟨rest, hf, hh, by injection h with h; exact h.symm⟩))
    · rename_i r rest hh
      split at h
      · rename_i i hd
        exact .inr (.inr (.inr (.inl ⟨r, rest, i, hf, hh, hd, h⟩)))
      · rename_i e hd
        obtain ⟨-, r', rest', hh', ht⟩ := illegalCommand_next h
        obtain rfl : r = r' := by rw [hh] at hh'; injection hh' with h1; injection h1
        exact .inr (.inr (.inr (.inr ⟨r, rest, e, hf, hh, hd, ht⟩)))

end Sys2Proof.Machine
end

