-- ==== Sys2Proof/Laws/Exec.lean ====
section
/-! SUPPORT. What each operation answers to a presented request (`Ready`), as one equation, so that no later proof unfolds
a meaning. -/

namespace Sys2Proof.Machine

variable {s : State} {r : Request} {rest : List HostMove}

theorem execCrc_ready (h : Ready s r rest) :
    exec .crc s =
      .next (if r.effLen < r.len then enterFault .lenExceedsBuffer r s
        else finish { okResults with rcrc := some (crc16 (r.buffer.take r.len)) } s) := by
  simp only [exec, execCrc, operate_ready _ h.1 h.2, raiseFault, deliver, crcEngine_eq, finish_withCrcReg]
  split <;> rfl

theorem execCrcapp_ready (h : Ready s r rest) :
    exec .crcapp s =
      .next (if r.effLen < r.len then enterFault .lenExceedsBuffer r s
        else if r.effLen < r.len + 2 then enterFault .capacity r s
        else finish
          { okResults with obuf := some (withChecksum r.buffer r.len (crc16 (r.buffer.take r.len))) } s) := by
  simp only [exec, execCrcapp, operate_ready _ h.1 h.2, raiseFault, deliver, crcEngine_eq, finish_withCrcReg]
  split
  · rfl
  · split <;> rfl

theorem execFval_ready (h : Ready s r rest) :
    exec .fval s = .next (finish { okResults with rbit := some (frameValid r.buffer) } s) := by
  simp only [exec, execFval, operate_ready _ h.1 h.2, deliver, crcEngine_eq, finish_withCrcReg, frameValid,
    Request.buffer_length]
  split <;> rfl

theorem execBind_ready (imm8 : Byte) (h : Ready s r rest) :
    exec (.bind imm8) s =
      .next (if s.bound then enterFault .alreadyBound r s
        else if addrMin ≤ imm8 ∧ imm8 ≤ addrMax then finish okResults { s with devAddr := imm8, bound := true }
        else finish { Results.absent with status := some statusInvalidAddress } s) := by
  simp only [exec, execBind, operate_ready _ h.1 h.2, raiseFault, deliver]
  split
  · rfl
  · split <;> rfl

theorem exec_unbound {i : Instr} (h : Ready s r rest) (hb : s.bound = false)
    (hi : i = .bsetv ∨ (∃ e, i = .benout e) ∨ i = .brdv ∨ i = .rval ∨ i = .rerr ∨ i = .rparsev) :
    exec i s = .next (enterFault .notBound r s) := by
  rcases hi with rfl | ⟨e, rfl⟩ | rfl | rfl | rfl | rfl <;>
    exact (operate_ready _ h.1 h.2).trans (needBound_of_unbound r _ hb)

theorem execBsetv_bound (h : Ready s r rest) (hb : s.bound = true) :
    exec .bsetv s =
      .next (match encodedVoltage s.params r.vin with
        | none => enterFault .voltageUnencodable r s
        | some q => finish
            { okResults with
              obuf := some (frame (setVoltageBody s.devAddr q) (crc16 (setVoltageBody s.devAddr q))) } s) := by
  simp only [exec, execBsetv, operate_ready _ h.1 h.2, needBound_of_bound r _ hb, raiseFault, deliverFrame_eq]
  cases encodedVoltage s.params r.vin <;> rfl

theorem execBenout_bound (e : Bool) (h : Ready s r rest) (hb : s.bound = true) :
    exec (.benout e) s =
      .next (finish
        { okResults with
          obuf := some (frame (enableOutputBody s.devAddr (enableByte s.params e))
            (crc16 (enableOutputBody s.devAddr (enableByte s.params e)))) } s) := by
  simp only [exec, execBenout, operate_ready _ h.1 h.2, needBound_of_bound r _ hb, deliverFrame_eq]

theorem execBrdv_bound (h : Ready s r rest) (hb : s.bound = true) :
    exec .brdv s =
      .next (finish
        { okResults with obuf := some (frame (readVoltageBody s.devAddr) (crc16 (readVoltageBody s.devAddr))) } s) := by
  simp only [exec, execBrdv, operate_ready _ h.1 h.2, needBound_of_bound r _ hb, deliverFrame_eq]

theorem execRval_bound (h : Ready s r rest) (hb : s.bound = true) :
    exec .rval s =
      .next (finish
        { okResults with rbit := some (decide (r.buffer.head? = some s.devAddr) && frameValid r.buffer) } s) := by
  simp only [exec, execRval, operate_ready _ h.1 h.2, needBound_of_bound r _ hb, deliver, crcEngine_eq,
    finish_withCrcReg]
  by_cases hn : r.effLen < 3
  · simp [hn, frameValid]
  · have hv : r.ibufValid = true := by
      cases hv : r.ibufValid with
      | true => rfl
      | false => simp [Request.effLen, hv] at hn
    by_cases ha : r.buffer.head? = some s.devAddr <;> simp [hn, hv, ha, frameValid]

theorem execRerr_bound (h : Ready s r rest) (hb : s.bound = true) :
    exec .rerr s =
      .next (finish { okResults with rbit := some (errorResponse s.params.errMinLen r.buffer) } s) := by
  simp only [exec, execRerr, operate_ready _ h.1 h.2, needBound_of_bound r _ hb, deliver]

theorem execRparsev_bound (h : Ready s r rest) (hb : s.bound = true) :
    exec .rparsev s =
      .next (finish { okResults with rvolt := some (voltageReading s.params.parseSentinel r.buffer) } s) := by
  simp only [exec, execRparsev, operate_ready _ h.1 h.2, needBound_of_bound r _ hb, deliver]

/-- Delivering through `finish` keeps the rest of the state. -/
theorem keeps_finish (res : Results) (s : State) : Keeps s (finish res s) :=
  ⟨rfl, rfl, rfl, rfl, rfl, rfl⟩

/-- An operation that answers through `finish` delivers those results. -/
theorem delivers_of_finish {i : Instr} {res : Results} (h : exec i s = .next (finish res s)) : Delivers i s res :=
  ⟨_, h, rfl, keeps_finish res s⟩

/-- What an operation delivers is unique. -/
theorem delivers_unique {i : Instr} {a b : Results} (ha : Delivers i s a) (hb : Delivers i s b) : a = b := by
  obtain ⟨t, ht, rfl, -⟩ := ha
  obtain ⟨u, hu, rfl, -⟩ := hb
  rw [ht] at hu
  injection hu with hu
  rw [hu]

end Sys2Proof.Machine
end

