-- ==== Sys2Proof/Laws/PerInstr.lean ====
section
/-! SUPPORT. The family of statements made per instruction: every encoding carries the fixed bits of its row of
spec/opcode_table.json (30_encoding.md R62, the full patterns). -/

namespace Sys2Proof.Laws

/-- The row's mask: which bits of the command word are fixed (30_encoding.md R62, R66). -/
def rowMask : Instr → Word
  | .crc => 0xFFFF#16
  | .crcapp => 0xFFFF#16
  | .fval => 0xFFFF#16
  | .bind _ => 0x00FF#16
  | .bsetv => 0xFFFF#16
  | .benout _ => 0xFFEF#16
  | .brdv => 0xFFFF#16
  | .rval => 0xFFFF#16
  | .rerr => 0xFFFF#16
  | .rparsev => 0xFFFF#16
  | .reservedA _ => 0x000F#16
  | .reservedB _ => 0x000F#16
  | .reservedC _ => 0x000F#16
  | .reservedD _ => 0x000F#16
  | .reservedE _ => 0x000F#16
  | .reservedF _ => 0x000F#16

/-- The row's match: the value of its fixed bits (30_encoding.md R62, R66). -/
def rowMatch : Instr → Word
  | .crc => 0x0000#16
  | .crcapp => 0x0001#16
  | .fval => 0x0002#16
  | .bind _ => 0x0003#16
  | .bsetv => 0x0004#16
  | .benout _ => 0x0005#16
  | .brdv => 0x0006#16
  | .rval => 0x0007#16
  | .rerr => 0x0008#16
  | .rparsev => 0x0009#16
  | .reservedA _ => 0x000A#16
  | .reservedB _ => 0x000B#16
  | .reservedC _ => 0x000C#16
  | .reservedD _ => 0x000D#16
  | .reservedE _ => 0x000E#16
  | .reservedF _ => 0x000F#16

/-- The instruction's command word has the fixed bits of its row. -/
def CarriesRowPattern.Statement (i : Instr) : Prop := encode i &&& rowMask i = rowMatch i

theorem CarriesRowPattern.crc : CarriesRowPattern.Statement .crc := by
  show _ = _; decide
theorem CarriesRowPattern.crcapp : CarriesRowPattern.Statement .crcapp := by
  show _ = _; decide
theorem CarriesRowPattern.fval : CarriesRowPattern.Statement .fval := by
  show _ = _; decide
theorem CarriesRowPattern.bind (imm8 : BitVec 8) : CarriesRowPattern.Statement (.bind imm8) := by
  show _ = _
  simp only [encode, commandWord, rowMask, rowMatch]
  ext k hk
  simp only [BitVec.getElem_and, BitVec.getElem_append]
  interval_cases k <;> simp
theorem CarriesRowPattern.bsetv : CarriesRowPattern.Statement .bsetv := by
  show _ = _; decide
theorem CarriesRowPattern.benout (enable : Bool) : CarriesRowPattern.Statement (.benout enable) := by
  show _ = _; cases enable <;> decide
theorem CarriesRowPattern.brdv : CarriesRowPattern.Statement .brdv := by
  show _ = _; decide
theorem CarriesRowPattern.rval : CarriesRowPattern.Statement .rval := by
  show _ = _; decide
theorem CarriesRowPattern.rerr : CarriesRowPattern.Statement .rerr := by
  show _ = _; decide
theorem CarriesRowPattern.rparsev : CarriesRowPattern.Statement .rparsev := by
  show _ = _; decide

/-- A reserved row fixes the low four bits and nothing else. -/
theorem append_and_low (rest : BitVec 12) (op : BitVec 4) :
    (rest ++ op : Word) &&& 0x000F#16 = (0#12 ++ op : Word) := by
  ext k hk
  simp only [BitVec.getElem_and, BitVec.getElem_append]
  interval_cases k <;> simp

theorem CarriesRowPattern.reservedA (rest : BitVec 12) : CarriesRowPattern.Statement (.reservedA rest) :=
  (append_and_low rest 0xA#4).trans rfl
theorem CarriesRowPattern.reservedB (rest : BitVec 12) : CarriesRowPattern.Statement (.reservedB rest) :=
  (append_and_low rest 0xB#4).trans rfl
theorem CarriesRowPattern.reservedC (rest : BitVec 12) : CarriesRowPattern.Statement (.reservedC rest) :=
  (append_and_low rest 0xC#4).trans rfl
theorem CarriesRowPattern.reservedD (rest : BitVec 12) : CarriesRowPattern.Statement (.reservedD rest) :=
  (append_and_low rest 0xD#4).trans rfl
theorem CarriesRowPattern.reservedE (rest : BitVec 12) : CarriesRowPattern.Statement (.reservedE rest) :=
  (append_and_low rest 0xE#4).trans rfl
theorem CarriesRowPattern.reservedF (rest : BitVec 12) : CarriesRowPattern.Statement (.reservedF rest) :=
  (append_and_low rest 0xF#4).trans rfl

end Sys2Proof.Laws
end

