-- ==== Sys2Proof/Tests/Slice0.lean ====
section
/-! SUPPORT. The model's own tests: the checks of WellFormed, every row's decoding from a word written out from
30_encoding.md R61 and R62, single steps with the results of spec/95_test_vectors.md, and for every statement with
hypotheses a state and operands that meet them. -/

namespace Sys2Proof.Tests

open Sys2Proof.Machine

/-! ### Well-formedness: an ill-formed term for each check -/

theorem test_wf_reserved_refused : Instr.wf (.reservedA 0#12) = false ∧ Instr.wf (.reservedB 1#12) = false ∧
    Instr.wf (.reservedC 0#12) = false ∧ Instr.wf (.reservedD 0#12) = false ∧
    Instr.wf (.reservedE 0#12) = false ∧ Instr.wf (.reservedF 0xFFF#12) = false := by decide

theorem test_wf_enable_byte_refused :
    ¬ Params.wf ⟨0x00#8, .two, -1, .fault, .exact⟩ := by
  rintro ⟨h, -⟩
  exact h rfl

theorem test_wf_sentinel_refused : ¬ Params.wf ⟨0x01#8, .two, 0, .fault, .exact⟩ := by
  rintro ⟨-, h⟩
  exact absurd h (by decide +kernel)

/-- A request with the given command word, buffer and coverage length. -/
def req (cmd : Word) (ibuf : List Byte) (len : Nat := 0) (vin : Rat := 0) : Request :=
  { cmd := cmd, ibuf := ibuf, ibufValid := true, len := len, vin := vin }

/-- A request with a null buffer. -/
def nullReq (cmd : Word) (len : Nat := 0) : Request :=
  { cmd := cmd, ibuf := [], ibufValid := false, len := len, vin := 0 }

theorem test_fits_buffer_refused : ¬ (req 0#16 [1#8, 2#8, 3#8]).fits 2 := by decide
theorem test_fits_len_refused : ¬ (req 0#16 [] 9).fits 8 := by decide

/-! ### Decoding: words written out bit by bit, IMM8 RSV E OP (R61) -/

theorem test_decode_crc : decode 0b00000000_000_0_0000#16 = .ok .crc := by decide
theorem test_decode_crcapp : decode 0b00000000_000_0_0001#16 = .ok .crcapp := by decide
theorem test_decode_fval : decode 0b00000000_000_0_0010#16 = .ok .fval := by decide
theorem test_decode_bind : decode 0b10100110_000_0_0011#16 = .ok (.bind 0xA6#8) := by decide
theorem test_decode_bsetv : decode 0b00000000_000_0_0100#16 = .ok .bsetv := by decide
theorem test_decode_benout_0 : decode 0b00000000_000_0_0101#16 = .ok (.benout false) := by decide
theorem test_decode_benout_1 : decode 0b00000000_000_1_0101#16 = .ok (.benout true) := by decide
theorem test_decode_brdv : decode 0b00000000_000_0_0110#16 = .ok .brdv := by decide
theorem test_decode_rval : decode 0b00000000_000_0_0111#16 = .ok .rval := by decide
theorem test_decode_rerr : decode 0b00000000_000_0_1000#16 = .ok .rerr := by decide
theorem test_decode_rparsev : decode 0b00000000_000_0_1001#16 = .ok .rparsev := by decide
theorem test_decode_reservedA : decode 0b10000000_000_1_1010#16 = .ok (.reservedA 0x801#12) := by decide
theorem test_decode_reservedB : decode 0b00000000_000_0_1011#16 = .ok (.reservedB 0x000#12) := by decide
theorem test_decode_reservedC : decode 0b00000001_000_0_1100#16 = .ok (.reservedC 0x010#12) := by decide
theorem test_decode_reservedD : decode 0b00000000_001_0_1101#16 = .ok (.reservedD 0x002#12) := by decide
theorem test_decode_reservedE : decode 0b00000000_000_1_1110#16 = .ok (.reservedE 0x001#12) := by decide
theorem test_decode_reservedF : decode 0b11111111_111_1_1111#16 = .ok (.reservedF 0xFFF#12) := by decide
theorem test_decode_rsv_rejected : decode 0b00000000_100_0_0000#16 = .error .reservedBits := by decide
theorem test_decode_e_rejected : decode 0b00000001_000_1_0011#16 = .error .enableBit := by decide
theorem test_decode_imm8_rejected : decode 0b00000001_000_0_0110#16 = .error .immediate := by decide
theorem test_table_word : decodeTableWord 16 0x0103 = some (.bind 0x01#8) ∧ decodeTableWord 16 0x0020 = none := by
  decide

/-! ### Single steps, from the vectors of spec/95_test_vectors.md -/

/-- The block in its reset state but for the binding, with one request presented; `addr = 0` is unbound. -/
def block (addr : Byte) (r : Request) : State :=
  { State.reset with bound := addr != 0#8, devAddr := addr, host := [.op r] }

/-- The results of a step that delivers. -/
def resultsOf (o : StepOutcome) : Option Results :=
  match o with
  | .next t => if t.fault = 0#4 then some t.results else none
  | _ => none

/-- `FAULT` and `FAULT_CMD` after a step. -/
def faultOf (o : StepOutcome) : Option (BitVec 4 × Word) :=
  match o with
  | .next t => some (t.fault, t.faultCmd)
  | _ => none

/-- `BOUND` and `DEV_ADDR` after a step. -/
def bindingOf (o : StepOutcome) : Option (Bool × Byte) :=
  match o with
  | .next t => some (t.bound, t.devAddr)
  | _ => none

/-- V-C13: the trailing bytes are ignored. -/
theorem test_crc_coverage :
    resultsOf (step (block 0#8 (req 0x0000#16 [0x01#8, 0x03#8, 0x15#8, 0x02#8, 0x00#8, 0x00#8] 4))) =
      some (okRcrc 0x897E#16) := by decide +kernel

/-- V-C20: a null buffer with `LEN = 1`. -/
theorem test_crc_null_faults : faultOf (step (block 0#8 (nullReq 0x0000#16 1))) = some (4#4, 0x0000#16) := by decide

/-- V-A3: the bytes after the checksum are copied. -/
theorem test_crcapp_tail :
    resultsOf (step (block 0#8
      (req 0x0001#16 [0x01#8, 0x03#8, 0x15#8, 0x02#8, 0x00#8, 0x00#8, 0xAA#8, 0xBB#8] 4))) =
      some (okObuf [0x01#8, 0x03#8, 0x15#8, 0x02#8, 0x7E#8, 0x89#8, 0xAA#8, 0xBB#8]) := by decide +kernel

/-- V-A6: `n = LEN + 1`. -/
theorem test_crcapp_capacity :
    faultOf (step (block 0#8 (req 0x0001#16 [0x01#8, 0x02#8, 0x03#8] 2))) = some (5#4, 0x0001#16) := by decide

/-- V-F9: one covered byte. -/
theorem test_fval_three_bytes :
    resultsOf (step (block 0#8 (req 0x0002#16 [0x00#8, 0xBF#8, 0x40#8]))) = some (okRbit true) := by decide

/-- V-F5: two bytes are too short, although they are the checksum of nothing. -/
theorem test_fval_short :
    resultsOf (step (block 0#8 (req 0x0002#16 [0xFF#8, 0xFF#8]))) = some (okRbit false) := by decide

/-- V-B3: the upper bound. -/
theorem test_bind_upper : bindingOf (step (block 0#8 (req 0x0603#16 []))) = some (true, 0x06#8) := by decide

/-- V-B4: above the range, the status and no binding. -/
theorem test_bind_above :
    resultsOf (step (block 0#8 (req 0x0703#16 []))) = some (onlyStatus 1#2) ∧
      bindingOf (step (block 0#8 (req 0x0703#16 []))) = some (false, 0x00#8) := by decide

/-- V-S1: 30.5 V. -/
theorem test_bsetv_frame :
    resultsOf (step (block 1#8 (req 0x0004#16 [] 0 (mkRat 305 10)))) =
      some (okObuf [0x01#8, 0x10#8, 0x15#8, 0x02#8, 0x31#8, 0x01#8, 0xB1#8, 0x95#8]) := by decide +kernel

/-- V-S22: -0.1 V under `VOLT_OOR_POLICY = wrap`. -/
theorem test_bsetv_wrap :
    resultsOf (step { block 1#8 (req 0x0004#16 [] 0 (mkRat (-1) 10)) with
      params := { Config.defaults with voltOorPolicy := .wrap } }) =
      some (okObuf [0x01#8, 0x10#8, 0x15#8, 0x02#8, 0xFF#8, 0xFF#8, 0x64#8, 0x75#8]) := by decide +kernel

/-- V-E3: `ENABLE_TRUE_BYTE = 0xFF`. -/
theorem test_benout_enable :
    resultsOf (step { block 1#8 (req 0x0015#16 []) with
      params := { Config.defaults with enableTrueByte := 0xFF#8 } }) =
      some (okObuf [0x01#8, 0x10#8, 0x11#8, 0x01#8, 0xFF#8, 0x0C#8, 0xD5#8]) := by decide +kernel

/-- Section 2.10, address 6: the disable frame. -/
theorem test_benout_disable :
    resultsOf (step (block 6#8 (req 0x0005#16 []))) =
      some (okObuf [0x06#8, 0x10#8, 0x11#8, 0x01#8, 0x00#8, 0xF9#8, 0x55#8]) := by decide +kernel

/-- Section 2.10, address 3. -/
theorem test_brdv_frame :
    resultsOf (step (block 3#8 (req 0x0006#16 []))) =
      some (okObuf [0x03#8, 0x03#8, 0x15#8, 0x02#8, 0x7F#8, 0x31#8]) := by decide +kernel

/-- V-D8: unbound. -/
theorem test_brdv_unbound : faultOf (step (block 0#8 (req 0x0006#16 []))) = some (2#4, 0x0006#16) := by decide

/-- V-V2: another address, although the checksum is right. -/
theorem test_rval_address :
    resultsOf (step (block 1#8 (req 0x0007#16 [0x02#8, 0x03#8, 0x15#8, 0x02#8, 0xFA#8, 0x00#8, 0xA2#8, 0x95#8]))) =
      some (okRbit false) := by decide

/-- V-V8: a 5-byte error response validates. -/
theorem test_rval_error_response :
    resultsOf (step (block 1#8 (req 0x0007#16 [0x01#8, 0x83#8, 0x02#8, 0xC0#8, 0xF1#8]))) =
      some (okRbit true) := by decide +kernel

/-- V-X5: two bytes with `ERR_MIN_LEN = 3`. -/
theorem test_rerr_too_short :
    resultsOf (step { block 1#8 (req 0x0008#16 [0x01#8, 0x10#8]) with
      params := { Config.defaults with errMinLen := .three } }) = some (okRbit true) := by decide

/-- V-X12: bits 6 to 0 are ignored. -/
theorem test_rerr_other_bits :
    resultsOf (step (block 1#8 (req 0x0008#16 [0x01#8, 0x7F#8, 0x00#8]))) = some (okRbit false) := by decide

/-- V-P1: raw 0x0131. -/
theorem test_rparsev_reading :
    resultsOf (step (block 1#8 (req 0x0009#16 [0x01#8, 0x03#8, 0x15#8, 0x02#8, 0x31#8, 0x01#8, 0x34#8, 0x56#8]))) =
      some (okRvolt (mkRat 305 10)) := by decide +kernel

/-- V-P2: seven bytes, with a sentinel of -5/2. -/
theorem test_rparsev_sentinel :
    resultsOf (step { block 1#8 (req 0x0009#16 [0x01#8, 0x03#8, 0x15#8, 0x02#8, 0x31#8, 0x01#8, 0x34#8]) with
      params := { Config.defaults with parseSentinel := mkRat (-5) 2 } }) =
      some (okRvolt (mkRat (-5) 2)) := by decide +kernel

/-- V-D1, V-D2 and the codes between. -/
theorem test_reserved_fault :
    faultOf (step (block 1#8 (req 0x000A#16 []))) = some (1#4, 0x000A#16) ∧
    faultOf (step (block 1#8 (req 0x000B#16 []))) = some (1#4, 0x000B#16) ∧
    faultOf (step (block 1#8 (req 0x000C#16 []))) = some (1#4, 0x000C#16) ∧
    faultOf (step (block 1#8 (req 0x000D#16 []))) = some (1#4, 0x000D#16) ∧
    faultOf (step (block 1#8 (req 0x000E#16 []))) = some (1#4, 0x000E#16) ∧
    faultOf (step (block 1#8 (req 0x000F#16 []))) = some (1#4, 0x000F#16) := by decide

/-- V-D3, V-D5, V-D6: illegal words. -/
theorem test_illegal_fault :
    faultOf (step (block 1#8 (req 0x0020#16 []))) = some (1#4, 0x0020#16) ∧
    faultOf (step (block 1#8 (req 0x0100#16 []))) = some (1#4, 0x0100#16) ∧
    faultOf (step (block 1#8 (req 0x0113#16 []))) = some (1#4, 0x0113#16) := by decide

/-- Two 12.34 V products: exact arithmetic and binary64 agree (V-S24), and 1/10 rounds to its binary64 value. -/
theorem test_binary64 :
    voltageCode .binary64 (mkRat 1234 100) = some 123 ∧
      fl64 (mkRat 1 10) = some (mkRat 3602879701896397 36028797018963968) ∧
      fl64 (mkRat (2 ^ 1024) 1) = none := by decide +kernel

/-- The host's interface word from reset runs BIND. -/
theorem test_withFetchWord : bindingOf (step (State.reset.withFetchWord 16 0x0103)) = some (true, 0x01#8) := by decide

/-! ### The hypotheses of the statements can be met -/

/-- A presented request. -/
theorem block_ready (addr : Byte) (r : Request) : Ready (block addr r) r [] := ⟨rfl, rfl⟩

/-- A block bound to 1 with one request meets the invariant. -/
theorem block_invariant (r : Request) : Invariant (block 1#8 r) where
  params_wf := Config.defaults_wf
  bound_addr := fun _ => ⟨Nat.le_refl 1, Nat.le_of_ble_eq_true rfl⟩
  fault_code := Nat.zero_le 6
  halted_results := fun _ => rfl
  status_value := by intro v h; cases h
  status_first := fun _ => rfl
  reading := by intro v h; cases h

/-- A bound block halted by a fault, with the host's moves. -/
def haltedBlock (moves : List HostMove) : State :=
  { State.reset with bound := true, devAddr := 1#8, fault := 6#4, host := moves }

/-- The `W_RDV` frame of address 1 (V-R1). -/
def readFrame : List Byte := [0x01#8, 0x03#8, 0x15#8, 0x02#8, 0x7E#8, 0x89#8]

/-- FVAL's own function accepts it (V-F1). -/
theorem readFrame_valid : frameValid readFrame = true := by decide +kernel

/-- A bound block's BRDV delivers it (V-R1). -/
theorem readFrame_delivered : Delivers .brdv (block 1#8 (req 0x0006#16 [])) (okObuf readFrame) := by
  have h := execBrdv_bound (block_ready 1#8 (req 0x0006#16 [])) rfl
  have hf : frame (readVoltageBody (block 1#8 (req 0x0006#16 [])).devAddr)
      (crc16 (readVoltageBody (block 1#8 (req 0x0006#16 [])).devAddr)) = readFrame := by decide +kernel
  rw [hf] at h
  exact delivers_of_finish h

/-- A read response of 8 bytes (V-P1). -/
def response8 : List Byte := [0x01#8, 0x03#8, 0x15#8, 0x02#8, 0x31#8, 0x01#8, 0x34#8, 0x56#8]

theorem witness_EncodeOfDecode : decode 0xFF03#16 = .ok (.bind 0xFF#8) := by decide

theorem witness_IllegalWordFaults_op : Ready (block 1#8 (req 0x000A#16 [])) (req 0x000A#16 []) [] ∧
    IllegalWord (req 0x000A#16 []).cmd := ⟨⟨rfl, rfl⟩, by decide⟩
theorem witness_IllegalWordFaults_rsv : Ready (block 1#8 (req 0x0080#16 [])) (req 0x0080#16 []) [] ∧
    IllegalWord (req 0x0080#16 []).cmd := ⟨⟨rfl, rfl⟩, by decide⟩
theorem witness_IllegalWordFaults_e : Ready (block 1#8 (req 0x0010#16 [])) (req 0x0010#16 []) [] ∧
    IllegalWord (req 0x0010#16 []).cmd := ⟨⟨rfl, rfl⟩, by decide⟩
theorem witness_IllegalWordFaults_imm8 : Ready (block 1#8 (req 0x0100#16 [])) (req 0x0100#16 []) [] ∧
    IllegalWord (req 0x0100#16 []).cmd := ⟨⟨rfl, rfl⟩, by decide⟩

theorem witness_ReservedOperationsFault : Ready (block 1#8 (req 0x000A#16 [])) (req 0x000A#16 []) [] := ⟨rfl, rfl⟩

theorem witness_StepRunsDecodedOperation :
    Ready (block 0#8 (req 0x0103#16 [])) (req 0x0103#16 []) [] ∧ decode (req 0x0103#16 []).cmd = .ok (.bind 0x01#8) :=
  ⟨⟨rfl, rfl⟩, by decide⟩
theorem witness_StepRunsDecodedOperation_placed :
    State.reset.fault = 0#4 ∧ decode 0x0015#16 = .ok (.benout true) := by decide

theorem witness_IdleStepChangesNothing : State.reset.fault = 0#4 ∧ State.reset.host = [] := ⟨rfl, rfl⟩

theorem witness_UnspecifiedRegistersUnread :
    Ready (block 0#8 (req 0x0603#16 [])) (req 0x0603#16 []) [] ∧ (block 0#8 (req 0x0603#16 [])).bound = false ∧
      ∃ t, exec (.bind 0x06#8) (block 0#8 (req 0x0603#16 [])) = .next t ∧ t.bound = true :=
  ⟨⟨rfl, rfl⟩, rfl, _, rfl, rfl⟩
theorem witness_UnspecifiedRegistersUnread_faulting :
    Ready (block 0#8 (req 0x0006#16 [])) (req 0x0006#16 []) [] ∧ (block 0#8 (req 0x0006#16 [])).bound = false ∧
      ∃ t, exec .brdv (block 0#8 (req 0x0006#16 [])) = .next t ∧ t.fault ≠ 0#4 :=
  ⟨⟨rfl, rfl⟩, rfl, _, rfl, by decide⟩

theorem witness_ResetEventResets : (haltedBlock [.reset]).host = .reset :: [] := rfl

theorem witness_OnlyResetUnbindsOrClearsFault :
    ∃ t, step (haltedBlock [.reset]) = .next t ∧ (haltedBlock [.reset]).bound = true ∧ t.bound = false ∧
      (haltedBlock [.reset]).fault ≠ 0#4 ∧ t.fault ≠ (haltedBlock [.reset]).fault :=
  ⟨resetBlock (haltedBlock [.reset]) [], rfl, rfl, rfl, by decide, by decide⟩
theorem witness_OnlyResetUnbindsOrClearsFault_unhalted :
    ∃ t, step { haltedBlock [.reset] with fault := 0#4 } = .next t ∧
      ({ haltedBlock [.reset] with fault := 0#4 } : State).bound = true ∧ t.bound = false := ⟨_, rfl, rfl, rfl⟩
theorem witness_OnlyResetUnbindsOrClearsFault_behind :
    ∃ t, step (haltedBlock [.op (req 0x0006#16 []), .reset]) = .next t ∧
      (haltedBlock [.op (req 0x0006#16 []), .reset]).fault ≠ 0#4 ∧ t.fault ≠ 6#4 :=
  ⟨_, rfl, by decide, by decide⟩

theorem witness_HaltedBlockHasNoStep :
    (haltedBlock [.op (req 0x0006#16 [])]).fault ≠ 0#4 ∧
      HostMove.reset ∉ (haltedBlock [.op (req 0x0006#16 [])]).host := ⟨by decide, by decide⟩
theorem witness_HaltedBlockHasNoStep_reset :
    (haltedBlock [.reset]).fault ≠ 0#4 ∧ ∃ t, step (haltedBlock [.reset]) = .next t := ⟨by decide, _, rfl⟩

theorem witness_ResetBehindIssuedOperationsIsReached :
    (haltedBlock [.op (req 0x0006#16 []), .reset]).fault ≠ 0#4 ∧
      (∀ m ∈ [HostMove.op (req 0x0006#16 [])], m ≠ HostMove.reset) ∧
      (haltedBlock [.op (req 0x0006#16 []), .reset]).host = [.op (req 0x0006#16 [])] ++ .reset :: [] :=
  ⟨by decide, by simp, rfl⟩

theorem witness_FaultEntryIsPrecise :
    Ready (block 0#8 (req 0x0006#16 [])) (req 0x0006#16 []) [] ∧
      ∃ t, step (block 0#8 (req 0x0006#16 [])) = .next t ∧ t.fault ≠ 0#4 :=
  ⟨⟨rfl, rfl⟩, _, rfl, by decide⟩

theorem witness_FaultCausesAndPriority : Ready (block 0#8 (req 0x0001#16 [1#8, 2#8, 3#8] 5))
    (req 0x0001#16 [1#8, 2#8, 3#8] 5) [] := ⟨rfl, rfl⟩
theorem witness_FaultCausesAndPriority_halted : (haltedBlock []).fault ≠ 0#4 := by decide

theorem witness_DutiesKeptNeverHalt :
    (block 1#8 (req 0x0001#16 [1#8, 2#8, 3#8] 1)).fault = 0#4 ∧
      (block 1#8 (req 0x0001#16 [1#8, 2#8, 3#8] 1)).bound = true ∧
      (∀ m ∈ (block 1#8 (req 0x0001#16 [1#8, 2#8, 3#8] 1)).host,
        KeepsDuties (block 1#8 (req 0x0001#16 [1#8, 2#8, 3#8] 1)).params m) ∧
      1 ≤ (block 1#8 (req 0x0001#16 [1#8, 2#8, 3#8] 1)).host.length := by
  refine ⟨rfl, rfl, ?_, by decide⟩
  intro m hm
  obtain rfl : m = .op (req 0x0001#16 [1#8, 2#8, 3#8] 1) := by simpa [block] using hm
  exact ⟨_, rfl, by decide⟩

theorem witness_StepKeepsInvariant :
    Invariant (block 1#8 (req 0x0006#16 [])) ∧ ∃ t, step (block 1#8 (req 0x0006#16 [])) = .next t :=
  ⟨block_invariant _, _, rfl⟩

theorem witness_NoStepWritesParameters : ∃ t, step (block 1#8 (req 0x0006#16 [])) = .next t := ⟨_, rfl⟩

theorem witness_ExactlyNamedFieldsDelivered :
    Ready (block 1#8 (req 0x0006#16 [])) (req 0x0006#16 []) [] ∧
      ∃ t, exec .brdv (block 1#8 (req 0x0006#16 [])) = .next t ∧ t.fault = 0#4 :=
  ⟨⟨rfl, rfl⟩, _, rfl, rfl⟩
theorem witness_ExactlyNamedFieldsDelivered_faulting :
    Ready (block 0#8 (req 0x0006#16 [])) (req 0x0006#16 []) [] ∧
      ∃ t, exec .brdv (block 0#8 (req 0x0006#16 [])) = .next t ∧ t.fault ≠ 0#4 :=
  ⟨⟨rfl, rfl⟩, _, rfl, by decide⟩

theorem witness_NullBufferIsEmptyBuffer :
    Ready (block 1#8 (nullReq 0x0000#16 0)) (nullReq 0x0000#16 0) [] ∧ (nullReq 0x0000#16 0).ibufValid = false ∧
      (nullReq 0x0000#16 0).len = 0 ∧ (block 1#8 (nullReq 0x0000#16 0)).bound = true := ⟨⟨rfl, rfl⟩, rfl, rfl, rfl⟩
theorem witness_NullBufferIsEmptyBuffer_covering :
    Ready (block 1#8 (nullReq 0x0000#16 1)) (nullReq 0x0000#16 1) [] ∧ (nullReq 0x0000#16 1).ibufValid = false ∧
      0 < (nullReq 0x0000#16 1).len := ⟨⟨rfl, rfl⟩, rfl, by decide⟩

theorem witness_UnreadOperandsHaveNoEffect :
    (req 0x0006#16 [1#8] 3).cmd = (req 0x0006#16 []).cmd ∧ SameOperands .brdv (req 0x0006#16 [1#8] 3) (req 0x0006#16 []) :=
  ⟨rfl, trivial⟩

theorem witness_ResultsDependOnlyOnStateRead :
    Ready (block 1#8 (req 0x0002#16 readFrame)) (req 0x0002#16 readFrame) [] ∧
      Ready (block 0#8 (req 0x0002#16 readFrame)) (req 0x0002#16 readFrame) [] ∧
      (block 1#8 (req 0x0002#16 readFrame)).params = (block 0#8 (req 0x0002#16 readFrame)).params ∧
      SameStateRead .fval (block 1#8 (req 0x0002#16 readFrame)) (block 0#8 (req 0x0002#16 readFrame)) :=
  ⟨⟨rfl, rfl⟩, ⟨rfl, rfl⟩, rfl, trivial⟩

theorem witness_OperationsAreIdempotent :
    Ready (block 1#8 (req 0x0006#16 [])) (req 0x0006#16 []) [] ∧ (∀ a, Instr.brdv ≠ .bind a) ∧
      ∃ t, exec .brdv (block 1#8 (req 0x0006#16 [])) = .next t ∧ t.fault = 0#4 :=
  ⟨⟨rfl, rfl⟩, by simp, _, rfl, rfl⟩
theorem witness_OperationsAreIdempotent_bind :
    Ready (block 0#8 (req 0x0603#16 [])) (req 0x0603#16 []) [] ∧
      ∃ t, exec (.bind 0x06#8) (block 0#8 (req 0x0603#16 [])) = .next t ∧ t.bound = true ∧ t.fault = 0#4 :=
  ⟨⟨rfl, rfl⟩, _, rfl, rfl, rfl⟩

theorem witness_OutputFitsCapacity :
    8 ≤ 8 ∧ Ready (block 1#8 (req 0x0006#16 [] 8)) (req 0x0006#16 [] 8) [] ∧ (req 0x0006#16 [] 8).fits 8 ∧
      ∃ t o, exec .brdv (block 1#8 (req 0x0006#16 [] 8)) = .next t ∧ readObuf t = .ok o :=
  ⟨by decide, ⟨rfl, rfl⟩, by decide, _, _, rfl, rfl⟩

theorem witness_BindOutcomes_bound :
    Ready (block 6#8 (req 0x0603#16 [])) (req 0x0603#16 []) [] ∧ (block 6#8 (req 0x0603#16 [])).bound = true :=
  ⟨⟨rfl, rfl⟩, rfl⟩
theorem witness_BindOutcomes_lower :
    Ready (block 0#8 (req 0x0103#16 [])) (req 0x0103#16 []) [] ∧ (block 0#8 (req 0x0103#16 [])).bound = false ∧
      1 ≤ (0x01#8).toNat ∧ (0x01#8).toNat ≤ 6 := ⟨⟨rfl, rfl⟩, rfl, by decide, by decide⟩
theorem witness_BindOutcomes_below :
    Ready (block 0#8 (req 0x0003#16 [])) (req 0x0003#16 []) [] ∧ (block 0#8 (req 0x0003#16 [])).bound = false ∧
      ((0x00#8).toNat < 1 ∨ 6 < (0x00#8).toNat) := ⟨⟨rfl, rfl⟩, rfl, by decide⟩
theorem witness_BindOutcomes_above :
    Ready (block 0#8 (req 0x0703#16 [])) (req 0x0703#16 []) [] ∧ (block 0#8 (req 0x0703#16 [])).bound = false ∧
      ((0x07#8).toNat < 1 ∨ 6 < (0x07#8).toNat) := ⟨⟨rfl, rfl⟩, rfl, by decide⟩
theorem witness_BindOutcomes_illegal : (0x0113#16).extractLsb' 0 4 = 3#4 ∧
    ((0x0113#16).extractLsb' 5 3 ≠ 0#3 ∨ (0x0113#16).getLsbD 4 = true) := by decide

theorem witness_BindingInvariant :
    Invariant (block 1#8 (req 0x0006#16 [])) ∧ (block 1#8 (req 0x0006#16 [])).fault = 0#4 ∧
      (block 1#8 (req 0x0006#16 [])).host.head? ≠ some .reset ∧ (block 1#8 (req 0x0006#16 [])).bound = true ∧
      ∃ t, step (block 1#8 (req 0x0006#16 [])) = .next t ∧ t.bound = true :=
  ⟨block_invariant _, rfl, by simp [block], rfl, _, rfl, rfl⟩
theorem witness_BindingInvariant_frame :
    Invariant (block 1#8 (req 0x0006#16 [])) ∧ Ready (block 1#8 (req 0x0006#16 [])) (req 0x0006#16 []) [] ∧
      ∃ t o, exec .brdv (block 1#8 (req 0x0006#16 [])) = .next t ∧ readObuf t = .ok o :=
  ⟨block_invariant _, ⟨rfl, rfl⟩, _, _, rfl, rfl⟩

theorem witness_ProtocolOperationsNeedBinding :
    Ready (block 0#8 (nullReq 0x0008#16)) (nullReq 0x0008#16) [] ∧ (block 0#8 (nullReq 0x0008#16)).bound = false :=
  ⟨⟨rfl, rfl⟩, rfl⟩

theorem witness_CrcOutcomes_covered :
    Ready (block 0#8 (req 0x0000#16 readFrame 6)) (req 0x0000#16 readFrame 6) [] ∧
      (req 0x0000#16 readFrame 6).len ≤ (req 0x0000#16 readFrame 6).effLen := ⟨⟨rfl, rfl⟩, by decide⟩
theorem witness_CrcOutcomes_exceeding :
    Ready (block 0#8 (req 0x0000#16 readFrame 7)) (req 0x0000#16 readFrame 7) [] ∧
      (req 0x0000#16 readFrame 7).effLen < (req 0x0000#16 readFrame 7).len := ⟨⟨rfl, rfl⟩, by decide⟩

theorem witness_CrcappOutcomes_room :
    Ready (block 0#8 (req 0x0001#16 readFrame 4)) (req 0x0001#16 readFrame 4) [] ∧
      (req 0x0001#16 readFrame 4).len + 2 ≤ (req 0x0001#16 readFrame 4).effLen := ⟨⟨rfl, rfl⟩, by decide⟩
theorem witness_CrcappOutcomes_exceeding :
    Ready (block 0#8 (req 0x0001#16 readFrame 7)) (req 0x0001#16 readFrame 7) [] ∧
      (req 0x0001#16 readFrame 7).effLen < (req 0x0001#16 readFrame 7).len := ⟨⟨rfl, rfl⟩, by decide⟩
theorem witness_CrcappOutcomes_capacity :
    Ready (block 0#8 (req 0x0001#16 readFrame 5)) (req 0x0001#16 readFrame 5) [] ∧
      (req 0x0001#16 readFrame 5).len ≤ (req 0x0001#16 readFrame 5).effLen ∧
      (req 0x0001#16 readFrame 5).effLen < (req 0x0001#16 readFrame 5).len + 2 :=
  ⟨⟨rfl, rfl⟩, by decide, by decide⟩

theorem witness_FvalOutcomes_short :
    Ready (block 0#8 (req 0x0002#16 [1#8, 2#8])) (req 0x0002#16 [1#8, 2#8]) [] ∧
      (req 0x0002#16 [1#8, 2#8]).effLen < 3 := ⟨⟨rfl, rfl⟩, by decide⟩
theorem witness_FvalOutcomes_framed :
    Ready (block 0#8 (req 0x0002#16 [0x00#8, 0xBF#8, 0x40#8])) (req 0x0002#16 [0x00#8, 0xBF#8, 0x40#8]) [] ∧
      (req 0x0002#16 [0x00#8, 0xBF#8, 0x40#8]).buffer = [0x00#8] ++ [0xBF#8, 0x40#8] ∧
      3 ≤ (req 0x0002#16 [0x00#8, 0xBF#8, 0x40#8]).effLen := ⟨⟨rfl, rfl⟩, rfl, by decide⟩

theorem witness_ChecksumRoundTrip :
    Ready (block 0#8 (req 0x0001#16 [0x07#8, 0x00#8, 0x00#8] 1)) (req 0x0001#16 [0x07#8, 0x00#8, 0x00#8] 1) [] ∧
      1 ≤ (req 0x0001#16 [0x07#8, 0x00#8, 0x00#8] 1).len ∧
      (req 0x0001#16 [0x07#8, 0x00#8, 0x00#8] 1).effLen = (req 0x0001#16 [0x07#8, 0x00#8, 0x00#8] 1).len + 2 :=
  ⟨⟨rfl, rfl⟩, by decide, by decide⟩
theorem witness_ChecksumRoundTrip_empty :
    Ready (block 0#8 (req 0x0001#16 [0xAB#8, 0xCD#8] 0)) (req 0x0001#16 [0xAB#8, 0xCD#8] 0) [] ∧
      (req 0x0001#16 [0xAB#8, 0xCD#8] 0).len = 0 ∧ (req 0x0001#16 [0xAB#8, 0xCD#8] 0).effLen = 2 :=
  ⟨⟨rfl, rfl⟩, rfl, rfl⟩
theorem witness_ChecksumRoundTrip_longer :
    Ready (block 0#8 (req 0x0001#16 [0x01#8, 0x03#8, 0x15#8, 0x02#8, 0x00#8, 0x00#8, 0xAA#8, 0xBB#8] 4))
      (req 0x0001#16 [0x01#8, 0x03#8, 0x15#8, 0x02#8, 0x00#8, 0x00#8, 0xAA#8, 0xBB#8] 4) [] := ⟨rfl, rfl⟩

theorem witness_SingleBitErrorsDetected :
    FvalGives readFrame true ∧ readFrame[5]? = some 0x89#8 ∧ 7 < 8 := by
  refine ⟨?_, rfl, by decide⟩
  intro s r rest h hb
  have := execFval_ready h
  rw [hb, readFrame_valid] at this
  exact delivers_of_finish this
theorem witness_SingleBitErrorsDetected_byte : readFrame[0]? = some 0x01#8 ∧ (0x81#8 : Byte) ≠ 0x01#8 := by decide

theorem witness_ZeroResidue_pair : crc16 ([] ++ [0xFF#8, 0xFF#8]) = 0x0000#16 := by decide +kernel
theorem witness_ZeroResidue_frame :
    Ready (block 0#8 (req 0x0002#16 readFrame)) (req 0x0002#16 readFrame) [] ∧
      3 ≤ (req 0x0002#16 readFrame).effLen := ⟨⟨rfl, rfl⟩, by decide⟩

theorem witness_Fl64RoundsToNearest : fl64 (mkRat 1 10) = some (mkRat 3602879701896397 36028797018963968) := by
  decide +kernel
theorem witness_Fl64RoundsToNearest_value : IsBinary64 0 := ⟨0, 0, by decide, by decide, by decide, by simp⟩
theorem witness_Fl64RoundsToNearest_threshold :
    fl64 (mkRat (2 ^ 1024 - 2 ^ 970) 1) = none ∧ fl64 (mkRat (-(2 ^ 1024 - 2 ^ 970)) 1) = none ∧
      fl64 (mkRat (2 ^ 1024 - 2 ^ 970 - 1) 1) = some (mkRat (2 ^ 1024 - 2 ^ 971) 1) := by decide +kernel
/-- A tie on each side of an even significand, at `2^53`, and half the least subnormal. -/
theorem witness_Fl64RoundsToNearest_tie :
    fl64 9007199254740993 = some 9007199254740992 ∧ fl64 9007199254740995 = some 9007199254740996 ∧
      fl64 (mkRat 1 (2 ^ 1075)) = some 0 := by decide +kernel
theorem witness_Fl64RoundsToNearest_tie_other : IsBinary64 9007199254740994 ∧
    (9007199254740994 : Rat) ≠ 9007199254740992 ∧
    |(9007199254740994 : Rat) - 9007199254740993| = |(9007199254740992 : Rat) - 9007199254740993| :=
  ⟨⟨4503599627370497, 1, by decide, by decide, by decide, by norm_num⟩, by norm_num, by norm_num⟩

/-- Rounding takes a voltage just under a tenth up to code 1, where exact arithmetic gives 0, and keeps signs. -/
theorem witness_Binary64VoltageCode :
    fl64 (mkRat (10 ^ 20 - 1) (10 ^ 21)) = some (mkRat 3602879701896397 36028797018963968) ∧
      fl64 (mkRat 3602879701896397 36028797018963968 * 10) = some 1 ∧
      fl64 (mkRat (-3) 4) = some (mkRat (-3) 4) ∧ fl64 (mkRat (-3) 4 * 10) = some (mkRat (-15) 2) ∧
      voltageCode .binary64 (mkRat (10 ^ 20 - 1) (10 ^ 21)) = some 1 ∧
      voltageCode .exact (mkRat (10 ^ 20 - 1) (10 ^ 21)) = some 0 ∧
      voltageCode .binary64 (mkRat (-3) 4) = some (-7) := by decide +kernel

/-- A block bound to 1 that computes in binary64 and wraps, with a voltage to encode. -/
def binary64Block (vin : Rat) : State :=
  { block 1#8 (req 0x0004#16 [] 0 vin) with
    params := { Config.defaults with voltArith := .binary64, voltOorPolicy := .wrap } }

theorem witness_Binary64VoltageCode_infinite_voltage :
    Ready (binary64Block (mkRat (2 ^ 1024) 1)) (req 0x0004#16 [] 0 (mkRat (2 ^ 1024) 1)) [] ∧
      (binary64Block (mkRat (2 ^ 1024) 1)).bound = true ∧
      (binary64Block (mkRat (2 ^ 1024) 1)).params.voltArith = .binary64 ∧ fl64 (mkRat (2 ^ 1024) 1) = none :=
  ⟨⟨rfl, rfl⟩, rfl, rfl, by decide +kernel⟩
theorem witness_Binary64VoltageCode_infinite_product :
    Ready (binary64Block (mkRat (2 ^ 1023) 1)) (req 0x0004#16 [] 0 (mkRat (2 ^ 1023) 1)) [] ∧
      (binary64Block (mkRat (2 ^ 1023) 1)).bound = true ∧
      (binary64Block (mkRat (2 ^ 1023) 1)).params.voltArith = .binary64 ∧
      fl64 (mkRat (2 ^ 1023) 1) = some (mkRat (2 ^ 1023) 1) ∧ fl64 (mkRat (2 ^ 1023) 1 * 10) = none :=
  ⟨⟨rfl, rfl⟩, rfl, rfl, by decide +kernel, by decide +kernel⟩

/-- 30.5 V to a block bound to 1. -/
def setReq : Request := req 0x0004#16 [] 0 (mkRat 61 2)

theorem witness_BsetvOutcomes :
    Ready (block 1#8 setReq) setReq [] ∧ (block 1#8 setReq).bound = true ∧
      encodedVoltage (block 1#8 setReq).params setReq.vin = some 0x0131#16 := ⟨⟨rfl, rfl⟩, rfl, by decide +kernel⟩
theorem witness_BsetvOutcomes_unencodable :
    Ready (block 1#8 (req 0x0004#16 [] 0 (mkRat 32768 5))) (req 0x0004#16 [] 0 (mkRat 32768 5)) [] ∧
      encodedVoltage (block 1#8 (req 0x0004#16 [] 0 (mkRat 32768 5))).params (mkRat 32768 5) = none :=
  ⟨⟨rfl, rfl⟩, by decide +kernel⟩
theorem witness_BsetvOutcomes_unbound :
    Ready (block 0#8 setReq) setReq [] ∧ (block 0#8 setReq).bound = false := ⟨⟨rfl, rfl⟩, rfl⟩

theorem witness_OutOfRangeVoltagePolicy :
    voltageCode .exact (mkRat 65535 10) = some 65535 ∧ voltageCode .exact (mkRat 65536 10) = some 65536 ∧
      voltageCode .exact (mkRat (-1) 10) = some (-1) ∧ voltageCode .exact 0 = some 0 := by decide +kernel
theorem witness_OutOfRangeVoltagePolicy_infinite : voltageCode .binary64 (mkRat (2 ^ 1024) 1) = none := by
  decide +kernel

theorem witness_BsetvHasNoRangeCheck :
    Ready (block 1#8 (req 0x0004#16 [] 0 100)) (req 0x0004#16 [] 0 100) [] ∧
      (block 1#8 (req 0x0004#16 [] 0 100)).bound = true ∧
      (block 1#8 (req 0x0004#16 [] 0 100)).params.voltArith = .exact ∧
      (-1 / 10 : Rat) < (req 0x0004#16 [] 0 100).vin ∧ (req 0x0004#16 [] 0 100).vin < (65536 / 10 : Rat) :=
  ⟨⟨rfl, rfl⟩, rfl, rfl, by decide +kernel, by decide +kernel⟩

theorem witness_BenoutOutcomes :
    Ready (block 1#8 (req 0x0015#16 [])) (req 0x0015#16 []) [] ∧ (block 1#8 (req 0x0015#16 [])).bound = true ∧
      (block 1#8 (req 0x0015#16 [])).params.wf := ⟨⟨rfl, rfl⟩, rfl, Config.defaults_wf⟩
theorem witness_BenoutOutcomes_unbound :
    Ready (block 0#8 (req 0x0015#16 [])) (req 0x0015#16 []) [] ∧ (block 0#8 (req 0x0015#16 [])).bound = false :=
  ⟨⟨rfl, rfl⟩, rfl⟩

theorem witness_BrdvOutcomes :
    Ready (block 1#8 (req 0x0006#16 [])) (req 0x0006#16 []) [] ∧ (block 1#8 (req 0x0006#16 [])).bound = true :=
  ⟨⟨rfl, rfl⟩, rfl⟩
theorem witness_BrdvOutcomes_unbound :
    Ready (block 0#8 (req 0x0006#16 [])) (req 0x0006#16 []) [] ∧ (block 0#8 (req 0x0006#16 [])).bound = false :=
  ⟨⟨rfl, rfl⟩, rfl⟩

theorem witness_ReadFrameEqualsAppendedShape :
    Ready (block 1#8 (req 0x0006#16 [])) (req 0x0006#16 []) [] ∧ (block 1#8 (req 0x0006#16 [])).bound = true ∧
      Ready (block 0#8 (req 0x0001#16 [0x01#8, 0x03#8, 0x15#8, 0x02#8, 0x00#8, 0x00#8] 4))
        (req 0x0001#16 [0x01#8, 0x03#8, 0x15#8, 0x02#8, 0x00#8, 0x00#8] 4) [] ∧
      Delivers .brdv (block 1#8 (req 0x0006#16 [])) (okObuf readFrame) :=
  ⟨⟨rfl, rfl⟩, rfl, ⟨rfl, rfl⟩, readFrame_delivered⟩

theorem witness_BuiltFramesValidate :
    Invariant (block 1#8 (req 0x0006#16 [])) ∧ Ready (block 1#8 (req 0x0006#16 [])) (req 0x0006#16 []) [] ∧
      Delivers .brdv (block 1#8 (req 0x0006#16 [])) (okObuf readFrame) ∧
      Ready (block 1#8 (req 0x0007#16 readFrame)) (req 0x0007#16 readFrame) [] ∧
      (block 1#8 (req 0x0007#16 readFrame)).bound = true ∧
      (block 1#8 (req 0x0007#16 readFrame)).devAddr = (block 1#8 (req 0x0006#16 [])).devAddr ∧
      (req 0x0007#16 readFrame).buffer = readFrame :=
  ⟨block_invariant _, ⟨rfl, rfl⟩, readFrame_delivered, ⟨rfl, rfl⟩, rfl, rfl, rfl⟩

/-- The `W_SETV` frame of 30.5 V (V-S1). -/
def setFrame : List Byte := [0x01#8, 0x10#8, 0x15#8, 0x02#8, 0x31#8, 0x01#8, 0xB1#8, 0x95#8]

theorem witness_VoltageRoundTrip :
    Ready (block 1#8 setReq) setReq [] ∧ (block 1#8 setReq).bound = true ∧
      voltageCode (block 1#8 setReq).params.voltArith setReq.vin = some 305 ∧
      Delivers .bsetv (block 1#8 setReq) (okObuf setFrame) ∧ 0 ≤ setReq.vin ∧
      Ready (block 1#8 (req 0x0009#16 response8)) (req 0x0009#16 response8) [] ∧
      8 ≤ (req 0x0009#16 response8).effLen ∧ (req 0x0009#16 response8).buffer[4]? = setFrame[4]? ∧
      (req 0x0009#16 response8).buffer[5]? = setFrame[5]? := by
  refine ⟨⟨rfl, rfl⟩, rfl, by decide +kernel, ?_, by decide +kernel, ⟨rfl, rfl⟩, by decide, rfl, rfl⟩
  have := execBsetv_bound (block_ready 1#8 setReq) rfl
  rw [witness_BsetvOutcomes.2.2] at this
  have hf : frame (setVoltageBody (block 1#8 setReq).devAddr 0x0131#16)
      (crc16 (setVoltageBody (block 1#8 setReq).devAddr 0x0131#16)) = setFrame := by decide +kernel
  simp only [hf] at this
  exact delivers_of_finish this

theorem witness_RvalOutcomes :
    Ready (block 1#8 (req 0x0007#16 [0x01#8, 0x7E#8, 0x80#8])) (req 0x0007#16 [0x01#8, 0x7E#8, 0x80#8]) [] ∧
      (block 1#8 (req 0x0007#16 [0x01#8, 0x7E#8, 0x80#8])).bound = true ∧
      (req 0x0007#16 [0x01#8, 0x7E#8, 0x80#8]).buffer = 0x01#8 :: ([] ++ [0x7E#8, 0x80#8]) := ⟨⟨rfl, rfl⟩, rfl, rfl⟩
theorem witness_RvalOutcomes_short :
    Ready (block 1#8 (req 0x0007#16 [1#8, 3#8])) (req 0x0007#16 [1#8, 3#8]) [] ∧
      ((req 0x0007#16 [1#8, 3#8]).ibufValid = false ∨ (req 0x0007#16 [1#8, 3#8]).effLen < 3) :=
  ⟨⟨rfl, rfl⟩, by decide⟩
theorem witness_RvalOutcomes_unbound :
    Ready (block 0#8 (req 0x0007#16 readFrame)) (req 0x0007#16 readFrame) [] ∧
      (block 0#8 (req 0x0007#16 readFrame)).bound = false := ⟨⟨rfl, rfl⟩, rfl⟩

theorem witness_AddressMismatchRejected :
    Ready (block 1#8 (req 0x0007#16 [2#8])) (req 0x0007#16 [2#8]) [] ∧ (block 1#8 (req 0x0007#16 [2#8])).bound = true ∧
      (req 0x0007#16 [2#8]).buffer = 2#8 :: [] ∧ (2#8 : Byte) ≠ (block 1#8 (req 0x0007#16 [2#8])).devAddr :=
  ⟨⟨rfl, rfl⟩, rfl, rfl, by decide⟩

theorem witness_MeaningfulResponseIsRval :
    Ready (block 1#8 (req 0x0007#16 readFrame)) (req 0x0007#16 readFrame) [] ∧
      (block 1#8 (req 0x0007#16 readFrame)).bound = true := ⟨⟨rfl, rfl⟩, rfl⟩

theorem witness_RerrOutcomes :
    Ready (block 1#8 (req 0x0008#16 [1#8, 0x90#8])) (req 0x0008#16 [1#8, 0x90#8]) [] ∧
      (block 1#8 (req 0x0008#16 [1#8, 0x90#8])).bound = true ∧
      (block 1#8 (req 0x0008#16 [1#8, 0x90#8])).params.errMinLen.toNat ≤ (req 0x0008#16 [1#8, 0x90#8]).effLen ∧
      (req 0x0008#16 [1#8, 0x90#8]).buffer[1]? = some 0x90#8 := ⟨⟨rfl, rfl⟩, rfl, by decide, rfl⟩
theorem witness_RerrOutcomes_short :
    Ready (block 1#8 (req 0x0008#16 [1#8])) (req 0x0008#16 [1#8]) [] ∧
      (req 0x0008#16 [1#8]).effLen < (block 1#8 (req 0x0008#16 [1#8])).params.errMinLen.toNat :=
  ⟨⟨rfl, rfl⟩, by decide⟩
theorem witness_RerrOutcomes_unbound :
    Ready (block 0#8 (nullReq 0x0008#16)) (nullReq 0x0008#16) [] ∧ (block 0#8 (nullReq 0x0008#16)).bound = false :=
  ⟨⟨rfl, rfl⟩, rfl⟩

theorem witness_RparsevOutcomes :
    Ready (block 1#8 (req 0x0009#16 response8)) (req 0x0009#16 response8) [] ∧
      (block 1#8 (req 0x0009#16 response8)).bound = true ∧ 8 ≤ (req 0x0009#16 response8).effLen ∧
      (req 0x0009#16 response8).buffer[4]? = some 0x31#8 ∧ (req 0x0009#16 response8).buffer[5]? = some 0x01#8 ∧
      Invariant (block 1#8 (req 0x0009#16 response8)) ∧
      ∃ v, Delivers .rparsev (block 1#8 (req 0x0009#16 response8)) (okRvolt v) :=
  ⟨⟨rfl, rfl⟩, rfl, by decide, rfl, rfl, block_invariant _, _, delivers_of_finish rfl⟩
theorem witness_RparsevOutcomes_short :
    Ready (block 1#8 (req 0x0009#16 (response8.take 7))) (req 0x0009#16 (response8.take 7)) [] ∧
      (block 1#8 (req 0x0009#16 (response8.take 7))).bound = true ∧ (req 0x0009#16 (response8.take 7)).effLen < 8 :=
  ⟨⟨rfl, rfl⟩, rfl, by decide⟩
theorem witness_RparsevOutcomes_unbound :
    Ready (block 0#8 (req 0x0009#16 response8)) (req 0x0009#16 response8) [] ∧
      (block 0#8 (req 0x0009#16 response8)).bound = false := ⟨⟨rfl, rfl⟩, rfl⟩

theorem witness_DecoderChecksNothingElse_rerr :
    Ready (block 1#8 (req 0x0008#16 [1#8, 0x90#8, 0#8])) (req 0x0008#16 [1#8, 0x90#8, 0#8]) [] ∧
      Ready (block 2#8 (req 0x0008#16 [7#8, 0xFF#8, 9#8])) (req 0x0008#16 [7#8, 0xFF#8, 9#8]) [] ∧
      3 ≤ (req 0x0008#16 [1#8, 0x90#8, 0#8]).effLen ∧ 3 ≤ (req 0x0008#16 [7#8, 0xFF#8, 9#8]).effLen ∧
      (req 0x0008#16 [1#8, 0x90#8, 0#8]).buffer[1]? = some 0x90#8 ∧
      (req 0x0008#16 [7#8, 0xFF#8, 9#8]).buffer[1]? = some 0xFF#8 ∧ (0x90#8).getLsbD 7 = (0xFF#8).getLsbD 7 :=
  ⟨⟨rfl, rfl⟩, ⟨rfl, rfl⟩, by decide, by decide, rfl, rfl, by decide⟩
theorem witness_DecoderChecksNothingElse_rparsev :
    Ready (block 1#8 (req 0x0009#16 response8)) (req 0x0009#16 response8) [] ∧
      Ready (block 2#8 (req 0x0009#16 setFrame)) (req 0x0009#16 setFrame) [] ∧
      8 ≤ (req 0x0009#16 response8).effLen ∧ 8 ≤ (req 0x0009#16 setFrame).effLen ∧
      (req 0x0009#16 response8).buffer[4]? = (req 0x0009#16 setFrame).buffer[4]? ∧
      (req 0x0009#16 response8).buffer[5]? = (req 0x0009#16 setFrame).buffer[5]? :=
  ⟨⟨rfl, rfl⟩, ⟨rfl, rfl⟩, by decide, by decide, rfl, rfl⟩
theorem witness_DecoderChecksNothingElse_rval :
    Ready (block 1#8 (req 0x0007#16 [0x01#8, 0x7E#8, 0x80#8])) (req 0x0007#16 [0x01#8, 0x7E#8, 0x80#8]) [] ∧
      (req 0x0007#16 [0x01#8, 0x7E#8, 0x80#8]).buffer = (0x01#8 :: []) ++
        [(crc16 (0x01#8 :: [])).extractLsb' 0 8, (crc16 (0x01#8 :: [])).extractLsb' 8 8] := ⟨⟨rfl, rfl⟩, by decide⟩

end Sys2Proof.Tests
end

section
/-! The implementation parameters are written by nothing (00_scope.md R6). -/

namespace Sys2Proof.Machine

/-- An operation keeps the parameters, whether it takes a fault, binds the address, or delivers. -/
theorem exec_keeps_params {i : Instr} {s t : State} (h : exec i s = .next t) : t.params = s.params := by
  obtain ⟨-, r, rest, -, houtcome⟩ := exec_next h
  obtain ⟨code, rfl⟩ | ⟨a, -, -, -, -, rfl⟩ | ⟨res, rfl⟩ := houtcome
  · exact enterFault_params code r s
  · exact finish_params okResults { s with devAddr := a, bound := true }
  · exact finish_params res s

/-- A step keeps the parameters: those of a reset, in a halted block or not, are wired (log 17). -/
theorem step_keeps_params {s t : State} (h : step s = .next t) : t.params = s.params := by
  obtain ⟨rest, -, -, rfl⟩ | ⟨-, -, rfl⟩ | ⟨rest, -, -, rfl⟩ | ⟨_, _, _, -, -, -, hexec⟩ |
    ⟨r, _, _, -, -, -, rfl⟩ := step_next h
  · exact resetBlock_params rest s
  · rfl
  · exact resetBlock_params rest s
  · exact exec_keeps_params hexec
  · exact enterFault_params .illegalCmd r s

/-- Settles O21, by the inversion of the step: each of its five outcomes keeps the parameters. -/
theorem noStepWritesParameters : Obligations.NoStepWritesParameters := by
  unfold Obligations.NoStepWritesParameters
  exact fun _ _ h => step_keeps_params h

end Sys2Proof.Machine
end

section
/-! The CRC engine is the bit-serial fold over the message, low bit first (10_state.md R26; 20_memory.md R45; 41_crc.md
R113). -/

namespace Sys2Proof.Machine

/-- The bit-serial step: the register shifts right by one place, and the polynomial comes in when the bit that leaves it
differs from the message bit (41_crc.md R111). -/
def serialBit (c : Word) (bit : Bool) : Word :=
  (c >>> 1) ^^^ (if c.getLsbD 0 != bit then 0xA001#16 else 0x0000#16)

/-- A step of a register that still carries the message `m` XORed into it is the bit-serial step on bit 0 of `m`, with
the rest of `m` moved down by one place. -/
theorem crcBit_xor (c m : Word) : crcBit (c ^^^ m) = serialBit c (m.getLsbD 0) ^^^ (m >>> 1) := by
  simp only [crcBit, serialBit, crcPoly, BitVec.getLsbD_xor, BitVec.ushiftRight_xor_distrib]
  cases c.getLsbD 0 <;> cases m.getLsbD 0 <;> simp [BitVec.xor_assoc, BitVec.xor_comm (m >>> 1)]

/-- `n` steps take the low `n` bits of the message in, bit 0 first. -/
theorem crcBit_iterate_xor (n : Nat) (c m : Word) :
    crcBit^[n] (c ^^^ m) = ((List.range n).map m.getLsbD).foldl serialBit c ^^^ (m >>> n) := by
  induction n with
  | zero => simp
  | succ n ih =>
    rw [Function.iterate_succ_apply', ih, crcBit_xor]
    simp [List.range_succ, BitVec.shiftRight_add]

/-- The byte step takes the bits of the byte in, bit 0 first: after 8 steps nothing of the byte is left in the register
(41_crc.md R111). -/
theorem crcByte_eq_foldl_serialBit (c : Word) (b : Byte) :
    crcByte c b = ((List.range 8).map fun k => b.getLsbD k).foldl serialBit c := by
  have hrest : b.setWidth 16 >>> 8 = 0#16 := by
    ext k hk
    simp
  have hbits : (List.range 8).map (b.setWidth 16).getLsbD = (List.range 8).map fun k => b.getLsbD k :=
    List.map_congr_left fun k hk => by
      have : k < 16 := (List.mem_range.1 hk).trans (by decide)
      simp [this]
  calc crcByte c b = crcBit^[8] (c ^^^ b.setWidth 16) := rfl
    _ = ((List.range 8).map fun k => b.getLsbD k).foldl serialBit c := by
      rw [crcBit_iterate_xor, hrest, hbits, BitVec.xor_zero]

/-- The checksum is the bit-serial fold over all bits of the message, bytes in order (41_crc.md R112). -/
theorem crc16_eq_foldl_serialBit (bytes : List Byte) :
    crc16 bytes =
      (bytes.flatMap fun b => (List.range 8).map fun k => b.getLsbD k).foldl serialBit 0xFFFF#16 := by
  simp only [List.foldl_flatMap, ← crcByte_eq_foldl_serialBit]
  rfl

/-- Settles O33: everything the engine does is to leave the checksum, which is the bit-serial fold. -/
theorem engineTakesBitsLowFirst : Obligations.EngineTakesBitsLowFirst := by
  unfold Obligations.EngineTakesBitsLowFirst
  intro s bytes
  rw [crcEngine_eq, crc16_eq_foldl_serialBit]
  exact ⟨rfl, rfl⟩

end Sys2Proof.Machine
end

section
/-! The host's reads of the result fields and of `CFG`, and the state after reset (10_state.md R22, R28, R30). -/

namespace Sys2Proof.Machine

@[simp] theorem readField_eq_ok {α : Type} {field : Option α} {v : α} :
    readField field = .ok v ↔ field = some v := by
  cases field <;> simp [readField]

/-- A read can fail in one way only: the field holds no value. -/
@[simp] theorem readField_eq_absent {α : Type} {field : Option α} :
    readField field = .error .resultAbsent ↔ field = none := by
  cases field <;> simp [readField]

/-- A field that no read can deliver is a fault of the read (10_state.md R22). -/
theorem readField_absent_of_not_ok {α : Type} {field : Option α} (h : ¬ ∃ v, readField field = .ok v) :
    readField field = .error .resultAbsent := by
  cases field with
  | none => rfl
  | some v => exact absurd ⟨v, rfl⟩ h

/-- `OBUF_LEN` is read together with `OBUF`, and is its length (10_state.md R22). -/
theorem readObufLen_eq (t : State) : readObufLen t = (readObuf t).map List.length := by
  unfold readObufLen readObuf Results.obufLen
  cases t.results.obuf <;> rfl

/-- Where no result field holds a value, the host reads none. -/
theorem reads_absent {t : State} (h : t.results = Results.absent) :
    readStatus t = .error .resultAbsent ∧ readObuf t = .error .resultAbsent ∧
      readObufLen t = .error .resultAbsent ∧ readRbit t = .error .resultAbsent ∧
      readRcrc t = .error .resultAbsent ∧ readRvolt t = .error .resultAbsent := by
  have hobuf : readObuf t = .error .resultAbsent := by simp [readObuf, h]
  exact ⟨by simp [readStatus, h], hobuf, by rw [readObufLen_eq, hobuf]; rfl, by simp [readRbit, h],
    by simp [readRcrc, h], by simp [readRvolt, h]⟩

/-- `CFG` bit by bit: `DEV_ADDR` below bit 8, `BOUND` at bit 8, nothing above (10_state.md R28). -/
theorem cfg_getLsbD (s : State) (k : Nat) :
    s.cfg.getLsbD k = if k < 8 then s.devAddr.getLsbD k else decide (k = 8) && s.bound := by
  have happend : s.cfg.getLsbD k =
      (0#7 ++ (BitVec.ofBool s.bound ++ s.devAddr : BitVec (1 + 8)) : BitVec (7 + (1 + 8))).getLsbD k := rfl
  rw [happend, BitVec.getLsbD_append, BitVec.getLsbD_append, BitVec.getLsbD_ofBool]
  grind

/-- Settles O9, by the bits of `CFG`. -/
theorem configurationRegisterLayout : Obligations.ConfigurationRegisterLayout := by
  unfold Obligations.ConfigurationRegisterLayout
  intro s
  refine ⟨?_, by rw [cfg_getLsbD]; simp, ?_⟩
  · ext k hk
    simp [cfg_getLsbD, hk]
  · ext k hk
    have habove : ¬ 9 + k < 8 := by omega
    simp [cfg_getLsbD, habove, show 9 + k ≠ 8 by omega]

/-- Settles O10: the zero bits of `CFG` are those of every state, and no result field holds a value at reset. -/
theorem resetStateValues : Obligations.ResetStateValues := by
  unfold Obligations.ResetStateValues
  obtain ⟨-, -, hzero⟩ := configurationRegisterLayout State.reset
  exact ⟨rfl, rfl, hzero, reads_absent rfl⟩

/-- Settles O20: the reset state is unbound, without fault and without results, and its parameters lie in their
ranges. -/
theorem resetMeetsInvariant : Obligations.ResetMeetsInvariant where
  params_wf := Config.defaults_wf
  bound_addr := fun hbound => by cases hbound
  fault_code := Nat.zero_le 6
  halted_results := fun _ => rfl
  status_value := fun _ hstatus => by cases hstatus
  status_first := fun _ => rfl
  reading := fun _ hvolt => by cases hvolt

end Sys2Proof.Machine
end

section
/-! What an operation delivers, field by field (10_state.md R22), and what it answers in an unbound block (10_state.md
R30). -/

namespace Sys2Proof.Machine

variable {s t : State} {r : Request} {rest : List HostMove} {i : Instr}

/-- The results an operation can deliver: the fields its rule names and no other (10_state.md R22; 40_config.md R100;
41_crc.md R114 to R116; 42_frame_encode.md R142, R145, R148; 43_frame_decode.md R170, R172, R173). A reserved operation
code delivers nothing. -/
inductive DeliverableBy : Instr → Results → Prop
  | crc (c : Word) : DeliverableBy .crc (okRcrc c)
  | crcapp (o : List Byte) : DeliverableBy .crcapp (okObuf o)
  | fval (v : Bool) : DeliverableBy .fval (okRbit v)
  | bind (a : Byte) (st : BitVec 2) : DeliverableBy (.bind a) (onlyStatus st)
  | bsetv (o : List Byte) : DeliverableBy .bsetv (okObuf o)
  | benout (e : Bool) (o : List Byte) : DeliverableBy (.benout e) (okObuf o)
  | brdv (o : List Byte) : DeliverableBy .brdv (okObuf o)
  | rval (v : Bool) : DeliverableBy .rval (okRbit v)
  | rerr (v : Bool) : DeliverableBy .rerr (okRbit v)
  | rparsev (v : Rat) : DeliverableBy .rparsev (okRvolt v)

/-- An illegal command word on a presented request, as an equation (30_encoding.md R65, R66). -/
theorem illegalCommand_ready (h : Ready s r rest) : illegalCommand s = .next (enterFault .illegalCmd r s) :=
  operate_ready _ h.1 h.2

/-- No fault that an operation raises is NONE (60_exceptions.md R200). -/
theorem faultValue_ne_none (code : FaultCode) : faultValue code ≠ 0#4 := by
  cases code <;> decide

/-- A presented request has an answer, and there are two kinds: the fault entry, or the delivery of the fields that the
operation's rule names. -/
theorem exec_ready_answer (i : Instr) (h : Ready s r rest) :
    (∃ code, exec i s = .next (enterFault code r s)) ∨
      ∃ t, exec i s = .next t ∧ t.fault = s.fault ∧ DeliverableBy i t.results := by
  cases i with
  | crc =>
    rw [execCrc_ready h]
    split
    · exact .inl ⟨_, rfl⟩
    · exact .inr ⟨_, rfl, rfl, .crc _⟩
  | crcapp =>
    rw [execCrcapp_ready h]
    split
    · exact .inl ⟨_, rfl⟩
    · split
      · exact .inl ⟨_, rfl⟩
      · exact .inr ⟨_, rfl, rfl, .crcapp _⟩
  | fval => exact .inr ⟨_, execFval_ready h, rfl, .fval _⟩
  | bind a =>
    rw [execBind_ready a h]
    split
    · exact .inl ⟨_, rfl⟩
    · split
      · exact .inr ⟨_, rfl, rfl, .bind a _⟩
      · exact .inr ⟨_, rfl, rfl, .bind a _⟩
  | bsetv =>
    cases hb : s.bound with
    | false => exact .inl ⟨_, exec_unbound h hb (by simp)⟩
    | true =>
      rw [execBsetv_bound h hb]
      cases encodedVoltage s.params r.vin with
      | none => exact .inl ⟨_, rfl⟩
      | some q => exact .inr ⟨_, rfl, rfl, .bsetv _⟩
  | benout e =>
    cases hb : s.bound with
    | false => exact .inl ⟨_, exec_unbound h hb (by simp)⟩
    | true => exact .inr ⟨_, execBenout_bound e h hb, rfl, .benout e _⟩
  | brdv =>
    cases hb : s.bound with
    | false => exact .inl ⟨_, exec_unbound h hb (by simp)⟩
    | true => exact .inr ⟨_, execBrdv_bound h hb, rfl, .brdv _⟩
  | rval =>
    cases hb : s.bound with
    | false => exact .inl ⟨_, exec_unbound h hb (by simp)⟩
    | true => exact .inr ⟨_, execRval_bound h hb, rfl, .rval _⟩
  | rerr =>
    cases hb : s.bound with
    | false => exact .inl ⟨_, exec_unbound h hb (by simp)⟩
    | true => exact .inr ⟨_, execRerr_bound h hb, rfl, .rerr _⟩
  | rparsev =>
    cases hb : s.bound with
    | false => exact .inl ⟨_, exec_unbound h hb (by simp)⟩
    | true => exact .inr ⟨_, execRparsev_bound h hb, rfl, .rparsev _⟩
  | reservedA _ | reservedB _ | reservedC _ | reservedD _ | reservedE _ | reservedF _ =>
    exact .inl ⟨_, illegalCommand_ready h⟩

/-- What the host can read after a delivery: `STATUS` and exactly the fields that the operation's rule names. -/
theorem DeliverableBy.reads (h : DeliverableBy i t.results) :
    (∃ v, readStatus t = .ok v) ∧
      ((∃ v, readObuf t = .ok v) ↔ i = .crcapp ∨ i = .bsetv ∨ (∃ e, i = .benout e) ∨ i = .brdv) ∧
      ((∃ v, readRbit t = .ok v) ↔ i = .fval ∨ i = .rval ∨ i = .rerr) ∧
      ((∃ v, readRcrc t = .ok v) ↔ i = .crc) ∧
      ((∃ v, readRvolt t = .ok v) ↔ i = .rparsev) := by
  simp only [readStatus, readObuf, readRbit, readRcrc, readRvolt, readField_eq_ok]
  generalize t.results = res at h
  cases h <;> simp [okRcrc, okObuf, okRbit, okRvolt, onlyStatus]

/-- What an unbound block answers is fixed by the operation and its request alone: a fault, the binding of an address, or
one and the same delivery in every state (10_state.md R30; 40_config.md R102). -/
theorem exec_unbound_answer (i : Instr) (r : Request) :
    (∃ code, ∀ s rest, Ready s r rest → s.bound = false → exec i s = .next (enterFault code r s)) ∨
    (∃ a, ∀ s rest, Ready s r rest → s.bound = false →
      exec i s = .next (finish okResults { s with devAddr := a, bound := true })) ∨
    ∃ res, ∀ s rest, Ready s r rest → s.bound = false → exec i s = .next (finish res s) := by
  cases i with
  | crc =>
    by_cases hlen : r.effLen < r.len
    · exact .inl ⟨_, fun s rest h _ => by rw [execCrc_ready h, if_pos hlen]⟩
    · exact .inr (.inr ⟨_, fun s rest h _ => by rw [execCrc_ready h, if_neg hlen]⟩)
  | crcapp =>
    by_cases hlen : r.effLen < r.len
    · exact .inl ⟨_, fun s rest h _ => by rw [execCrcapp_ready h, if_pos hlen]⟩
    · by_cases hroom : r.effLen < r.len + 2
      · exact .inl ⟨_, fun s rest h _ => by rw [execCrcapp_ready h, if_neg hlen, if_pos hroom]⟩
      · exact .inr (.inr ⟨_, fun s rest h _ => by rw [execCrcapp_ready h, if_neg hlen, if_neg hroom]⟩)
  | fval => exact .inr (.inr ⟨_, fun s rest h _ => execFval_ready h⟩)
  | bind a =>
    by_cases ha : addrMin ≤ a ∧ a ≤ addrMax
    · exact .inr (.inl ⟨a, fun s rest h hb => by simp [execBind_ready a h, hb, ha]⟩)
    · exact .inr (.inr ⟨_, fun s rest h hb => by rw [execBind_ready a h, hb, if_neg (by decide), if_neg ha]⟩)
  | bsetv | benout _ | brdv | rval | rerr | rparsev =>
    exact .inl ⟨_, fun s rest h hb => exec_unbound h hb (by simp)⟩
  | reservedA _ | reservedB _ | reservedC _ | reservedD _ | reservedE _ | reservedF _ =>
    exact .inl ⟨_, fun s rest h _ => illegalCommand_ready h⟩

end Sys2Proof.Machine
end

section
/-! The two statements about an operation's answer: which result fields it delivers, and what it reads of an unbound
block (10_state.md R22, R30). -/

namespace Sys2Proof.Machine

/-- Settles O22, by the two ends of an operation: after a fault nothing can be read, after a delivery exactly the fields
named. -/
theorem exactlyNamedFieldsDelivered : Obligations.ExactlyNamedFieldsDelivered := by
  unfold Obligations.ExactlyNamedFieldsDelivered
  intro s r rest i t hready hexec
  have hlen : ∀ o, readObuf t = .ok o → readObufLen t = .ok o.length := fun o ho => by
    rw [readObufLen_eq, ho]; rfl
  obtain ⟨code, hanswer⟩ | ⟨u, hanswer, hkept, hres⟩ := exec_ready_answer i hready
  · obtain rfl : enterFault code r s = t := by rw [hanswer] at hexec; injection hexec
    have hfault : (enterFault code r s).fault ≠ 0#4 := faultValue_ne_none code
    obtain ⟨hstatus, hobuf, hobufLen, hrbit, hrcrc, hrvolt⟩ := reads_absent (enterFault_results code r s)
    exact ⟨fun h => absurd h hfault, fun _ => hstatus, fun _ => ⟨hobuf, hobufLen⟩, hlen, fun _ => hrbit,
      fun _ => hrcrc, fun _ => hrvolt⟩
  · obtain rfl : u = t := by rw [hanswer] at hexec; injection hexec
    have hfault : u.fault = 0#4 := hkept.trans hready.1
    obtain ⟨hstatus, hobuf, hrbit, hrcrc, hrvolt⟩ := hres.reads
    have unnamed {P : Prop} (h : u.fault ≠ 0#4 ∨ ¬ P) : ¬ P := h.resolve_left (not_not_intro hfault)
    refine ⟨fun _ => ⟨hstatus, hobuf, hrbit, hrcrc, hrvolt⟩, fun h => absurd hfault h, fun h => ?_, hlen,
      fun h => readField_absent_of_not_ok (mt hrbit.1 (unnamed h)),
      fun h => readField_absent_of_not_ok (mt hrcrc.1 (unnamed h)),
      fun h => readField_absent_of_not_ok (mt hrvolt.1 (unnamed h))⟩
    have habsent : readObuf u = .error .resultAbsent := readField_absent_of_not_ok (mt hobuf.1 (unnamed h))
    exact ⟨habsent, by rw [readObufLen_eq, habsent]; rfl⟩

/-- Settles O11: what the block answers is the same in both states, and each answer writes over the registers or leaves
them with nothing that depends on them. -/
theorem unspecifiedRegistersUnread : Obligations.UnspecifiedRegistersUnread := by
  unfold Obligations.UnspecifiedRegistersUnread
  intro s r rest i a fc c hready hbound
  obtain ⟨code, hexec⟩ | ⟨addr, hexec⟩ | ⟨res, hexec⟩ := exec_unbound_answer i r
  · exact ⟨_, _, hexec s rest hready hbound, hexec _ rest hready hbound, rfl, rfl, rfl, rfl,
      fun h => absurd (hbound.symm.trans h) Bool.false_ne_true, fun _ => rfl⟩
  · exact ⟨_, _, hexec s rest hready hbound, hexec _ rest hready hbound, rfl, rfl, rfl, rfl,
      fun _ => rfl, fun h => absurd hready.1 h⟩
  · exact ⟨_, _, hexec s rest hready hbound, hexec _ rest hready hbound, rfl, rfl, rfl, rfl,
      fun h => absurd (hbound.symm.trans h) Bool.false_ne_true, fun h => absurd hready.1 h⟩

end Sys2Proof.Machine
end

section
/-! One reading of an operation's answer, for statements that compare two runs: what is answered is fixed by the operand
fields and the state that the operation's row names (20_memory.md R51; 30_encoding.md R67). -/

namespace Sys2Proof.Machine

variable {s s' t : State} {r r' : Request} {rest rest' : List HostMove} {i : Instr}

/-- What an operation can answer to a presented request, apart from the state it leaves unchanged. -/
inductive Answer where
  | faults (code : FaultCode)
  | binds (a : Byte)
  | delivers (res : Results)

/-- The next state that an answer to the request `r` gives. -/
def Answer.next (r : Request) (s : State) : Answer → State
  | .faults code => enterFault code r s
  | .binds a => finish okResults { s with devAddr := a, bound := true }
  | .delivers res => finish res s

/-- Two blocks that agree on the state the operation reads, presented with requests that agree on the operands it reads,
give one and the same answer. -/
theorem exec_same_answer (h : Ready s r rest) (h' : Ready s' r' rest') (hparams : s.params = s'.params)
    (hstate : SameStateRead i s s') (hop : SameOperands i r r') :
    ∃ a : Answer, exec i s = .next (a.next r s) ∧ exec i s' = .next (a.next r' s') := by
  cases i with
  | crc =>
    obtain ⟨hbuf, hlen⟩ := hop
    rw [execCrc_ready h, execCrc_ready h', ← Request.buffer_length r', ← hbuf, ← hlen, Request.buffer_length]
    split
    · exact ⟨.faults _, rfl, rfl⟩
    · exact ⟨.delivers _, rfl, rfl⟩
  | crcapp =>
    obtain ⟨hbuf, hlen⟩ := hop
    rw [execCrcapp_ready h, execCrcapp_ready h', ← Request.buffer_length r', ← hbuf, ← hlen,
      Request.buffer_length]
    split
    · exact ⟨.faults _, rfl, rfl⟩
    · split
      · exact ⟨.faults _, rfl, rfl⟩
      · exact ⟨.delivers _, rfl, rfl⟩
  | fval =>
    have hbuf : r.buffer = r'.buffer := hop
    rw [execFval_ready h, execFval_ready h', ← hbuf]
    exact ⟨.delivers _, rfl, rfl⟩
  | bind a =>
    have hbound : s.bound = s'.bound := hstate
    rw [execBind_ready a h, execBind_ready a h', ← hbound]
    split
    · exact ⟨.faults _, rfl, rfl⟩
    · split
      · exact ⟨.binds a, rfl, rfl⟩
      · exact ⟨.delivers _, rfl, rfl⟩
  | bsetv =>
    obtain ⟨hbound, haddr⟩ := hstate
    have hvin : r.vin = r'.vin := hop
    cases hb : s.bound with
    | false => exact ⟨.faults _, exec_unbound h hb (by simp), exec_unbound h' (hbound ▸ hb) (by simp)⟩
    | true =>
      rw [execBsetv_bound h hb, execBsetv_bound h' (hbound ▸ hb), ← hparams, ← haddr, ← hvin]
      cases encodedVoltage s.params r.vin with
      | none => exact ⟨.faults _, rfl, rfl⟩
      | some q => exact ⟨.delivers _, rfl, rfl⟩
  | benout e =>
    obtain ⟨hbound, haddr⟩ := hstate
    cases hb : s.bound with
    | false => exact ⟨.faults _, exec_unbound h hb (by simp), exec_unbound h' (hbound ▸ hb) (by simp)⟩
    | true =>
      rw [execBenout_bound e h hb, execBenout_bound e h' (hbound ▸ hb), ← hparams, ← haddr]
      exact ⟨.delivers _, rfl, rfl⟩
  | brdv =>
    obtain ⟨hbound, haddr⟩ := hstate
    cases hb : s.bound with
    | false => exact ⟨.faults _, exec_unbound h hb (by simp), exec_unbound h' (hbound ▸ hb) (by simp)⟩
    | true =>
      rw [execBrdv_bound h hb, execBrdv_bound h' (hbound ▸ hb), ← haddr]
      exact ⟨.delivers _, rfl, rfl⟩
  | rval =>
    obtain ⟨hbound, haddr⟩ := hstate
    have hbuf : r.buffer = r'.buffer := hop
    cases hb : s.bound with
    | false => exact ⟨.faults _, exec_unbound h hb (by simp), exec_unbound h' (hbound ▸ hb) (by simp)⟩
    | true =>
      rw [execRval_bound h hb, execRval_bound h' (hbound ▸ hb), ← haddr, ← hbuf]
      exact ⟨.delivers _, rfl, rfl⟩
  | rerr =>
    have hbound : s.bound = s'.bound := hstate
    have hbuf : r.buffer = r'.buffer := hop
    cases hb : s.bound with
    | false => exact ⟨.faults _, exec_unbound h hb (by simp), exec_unbound h' (hbound ▸ hb) (by simp)⟩
    | true =>
      rw [execRerr_bound h hb, execRerr_bound h' (hbound ▸ hb), ← hparams, ← hbuf]
      exact ⟨.delivers _, rfl, rfl⟩
  | rparsev =>
    have hbound : s.bound = s'.bound := hstate
    have hbuf : r.buffer = r'.buffer := hop
    cases hb : s.bound with
    | false => exact ⟨.faults _, exec_unbound h hb (by simp), exec_unbound h' (hbound ▸ hb) (by simp)⟩
    | true =>
      rw [execRparsev_bound h hb, execRparsev_bound h' (hbound ▸ hb), ← hparams, ← hbuf]
      exact ⟨.delivers _, rfl, rfl⟩
  | reservedA _ | reservedB _ | reservedC _ | reservedD _ | reservedE _ | reservedF _ =>
    exact ⟨.faults _, illegalCommand_ready h, illegalCommand_ready h'⟩

/-- A halted block has no step for any operation (60_exceptions.md R202). -/
theorem exec_halted (i : Instr) (hf : s.fault ≠ 0#4) : exec i s = .fault .halted := by
  cases i <;> exact operate_halted _ hf

/-- Blocks with one binding agree on the state that any operation reads. -/
theorem sameStateRead_of_binding (i : Instr) (hbound : s.bound = s'.bound) (haddr : s.devAddr = s'.devAddr) :
    SameStateRead i s s' := by
  cases i <;> simp [SameStateRead, hbound, haddr]

/-- Requests with one effective buffer and the same numbers agree on the operands that any operation reads. -/
theorem sameOperands_of_fields (i : Instr) (hbuf : r.buffer = r'.buffer) (hlen : r.len = r'.len)
    (hvin : r.vin = r'.vin) : SameOperands i r r' := by
  cases i <;> simp [SameOperands, hbuf, hlen, hvin]

/-- Requests of one command word that agree on the operands read are answered alike, to the whole outcome, by a halted
block too. -/
theorem exec_sameOperands (s : State) (rest : List HostMove) (hcmd : r.cmd = r'.cmd) (hop : SameOperands i r r') :
    exec i { s with host := .op r :: rest } = exec i { s with host := .op r' :: rest } := by
  by_cases hf : s.fault = 0#4
  · obtain ⟨a, hexec, hexec'⟩ :=
      exec_same_answer (s := { s with host := .op r :: rest }) (s' := { s with host := .op r' :: rest })
        ⟨hf, rfl⟩ ⟨hf, rfl⟩ rfl (sameStateRead_of_binding i rfl rfl) hop
    rw [hexec, hexec']
    cases a with
    | faults code => simp [Answer.next, enterFault, hcmd]
    | binds a => rfl
    | delivers res => rfl
  · exact (exec_halted (s := { s with host := .op r :: rest }) i hf).trans
      (exec_halted (s := { s with host := .op r' :: rest }) i hf).symm

/-- Settles O25: the answer is one and the same, and it fixes the results and the fault. -/
theorem resultsDependOnlyOnStateRead : Obligations.ResultsDependOnlyOnStateRead := by
  unfold Obligations.ResultsDependOnlyOnStateRead
  intro i s t r rest rest' hs ht hparams hstate
  obtain ⟨a, hexec, hexec'⟩ := exec_same_answer hs ht hparams hstate (sameOperands_of_fields i rfl rfl rfl)
  have hfault : s.fault = t.fault := hs.1.trans ht.1.symm
  refine ⟨_, _, hexec, hexec', ?_⟩
  cases a with
  | faults code => exact ⟨rfl, rfl⟩
  | binds a => exact ⟨rfl, hfault⟩
  | delivers res => exact ⟨rfl, hfault⟩

end Sys2Proof.Machine
end

section
/-! An operation repeated (20_memory.md R48). -/

namespace Sys2Proof.Machine

variable {s t u : State} {i : Instr}

/-- An operation other than BIND that does not fault leaves everything but the results, the request and the engine as it
was. -/
theorem exec_keeps (hi : ∀ a, i ≠ .bind a) (hexec : exec i s = .next t) (hf : t.fault = 0#4) : Keeps s t := by
  obtain ⟨-, r, rest, -, ⟨code, rfl⟩ | ⟨a, rfl, -⟩ | ⟨res, rfl⟩⟩ := exec_next hexec
  · exact absurd hf (faultValue_ne_none code)
  · exact absurd rfl (hi a)
  · exact keeps_finish res s

/-- What two operations keep, the second on the moves of the first presented again, the two together keep. -/
theorem Keeps.trans_again (hfirst : Keeps s t) (hsecond : Keeps { t with host := s.host } u) : Keeps s u := by
  obtain ⟨haddr, hbound, hfault, hcmd, hparams, -⟩ := hfirst
  obtain ⟨haddr', hbound', hfault', hcmd', hparams', hhost⟩ := hsecond
  exact ⟨haddr'.trans haddr, hbound'.trans hbound, hfault'.trans hfault, hcmd'.trans hcmd, hparams'.trans hparams,
    hhost⟩

/-- Settles O26: the block after an operation still holds the state that the operation reads, so the repeated request
gives the same results and again keeps the rest; the block after a BIND is bound, so a second one faults. -/
theorem operationsAreIdempotent : Obligations.OperationsAreIdempotent := by
  unfold Obligations.OperationsAreIdempotent
  constructor
  · intro s r rest i t hready hi hexec hf
    have hkeeps : Keeps s t := exec_keeps hi hexec hf
    have ⟨haddr, hbound, _, _, hparams, _⟩ := hkeeps
    have hready' : Ready { t with host := s.host } r rest := ⟨hf, hready.2⟩
    obtain ⟨t', u, hexec', hexecu, hres, hfault⟩ :=
      resultsDependOnlyOnStateRead i s { t with host := s.host } r rest rest hready hready' hparams.symm
        (sameStateRead_of_binding i hbound.symm haddr.symm)
    obtain rfl : t = t' := by rw [hexec] at hexec'; injection hexec'
    exact ⟨hkeeps, u, hexecu, hres.symm, hkeeps.trans_again (exec_keeps hi hexecu (hfault.symm.trans hf))⟩
  · intro s r rest a t hready _ hbound hf
    have hready' : Ready { t with host := s.host } r rest := ⟨hf, hready.2⟩
    rw [execBind_ready a hready', if_pos hbound]
    rfl

end Sys2Proof.Machine
end

section
/-! Buffers: the null buffer (20_memory.md R42) and the length of what is delivered (20_memory.md R41). -/

namespace Sys2Proof

variable {r : Request}

/-- A null buffer is the empty buffer, whatever `IBUF` holds (20_memory.md R42). -/
theorem Request.buffer_of_null (h : r.ibufValid = false) : r.buffer = [] := by
  simp [Request.buffer, h]

theorem Request.effLen_of_null (h : r.ibufValid = false) : r.effLen = 0 := by
  simp [Request.effLen, h]

/-- The effective buffer is no longer than the one presented. -/
theorem Request.effLen_le (r : Request) : r.effLen ≤ r.ibuf.length := by
  unfold Request.effLen Request.ibufLen
  split
  · exact le_rfl
  · exact Nat.zero_le _

end Sys2Proof

namespace Sys2Proof.Machine

variable {s t : State} {r : Request} {rest : List HostMove} {i : Instr}

/-- An empty frame is too short to be accepted (41_crc.md R116). -/
@[simp] theorem frameValid_nil : frameValid [] = false := rfl

/-- An empty response is too short under either `ERR_MIN_LEN` (43_frame_decode.md R172). -/
@[simp] theorem errorResponse_nil (m : ErrMinLen) : errorResponse m [] = true := by
  cases m <;> rfl

/-- An empty response has no reading (43_frame_decode.md R173). -/
@[simp] theorem voltageReading_nil (sentinel : Rat) : voltageReading sentinel [] = sentinel := rfl

/-- Settles O23: a null buffer and an empty one are the same effective buffer, and what each operation answers to it is
its equation at the empty list. -/
theorem nullBufferIsEmptyBuffer : Obligations.NullBufferIsEmptyBuffer := by
  unfold Obligations.NullBufferIsEmptyBuffer
  constructor
  · intro i s r rest hnull
    exact exec_sameOperands s rest rfl (sameOperands_of_fields i (Request.buffer_of_null hnull) rfl rfl)
  · intro s r rest hready hnull
    have hbuf : r.buffer = [] := Request.buffer_of_null hnull
    have heff : r.effLen = 0 := Request.effLen_of_null hnull
    refine ⟨fun hlen => ?_, fun hlen => ?_, ?_, fun hbound => ⟨?_, ?_, ?_⟩⟩
    · have hexec := execCrc_ready hready
      rw [if_neg (by omega), hbuf, hlen] at hexec
      exact delivers_of_finish hexec
    · rw [execCrc_ready hready, if_pos (by omega)]
      rfl
    · have hexec := execFval_ready hready
      rw [hbuf, frameValid_nil] at hexec
      exact delivers_of_finish hexec
    · have hexec := execRval_bound hready hbound
      rw [hbuf, frameValid_nil, Bool.and_false] at hexec
      exact delivers_of_finish hexec
    · have hexec := execRerr_bound hready hbound
      rw [hbuf, errorResponse_nil] at hexec
      exact delivers_of_finish hexec
    · have hexec := execRparsev_bound hready hbound
      rw [hbuf, voltageReading_nil] at hexec
      exact delivers_of_finish hexec

/-- CRCAPP's output is as long as its input (41_crc.md R115). -/
@[simp] theorem withChecksum_length (f : List Byte) (len : Nat) (c : Word) :
    (withChecksum f len c).length = f.length := by
  simp [withChecksum]

/-- A frame is two bytes longer than what its checksum covers (30_encoding.md R68). -/
@[simp] theorem frame_length (body : List Byte) (c : Word) : (frame body c).length = body.length + 2 := by
  simp [frame]

/-- An operation that has faulted delivers no `OBUF` (60_exceptions.md R201). -/
theorem readObuf_ne_ok_of_fault {code : FaultCode} {o : List Byte} (hfault : exec i s = .next (enterFault code r s))
    (hexec : exec i s = .next t) : readObuf t ≠ .ok o := by
  obtain rfl : enterFault code r s = t := by rw [hfault] at hexec; injection hexec
  nofun

/-- The `OBUF` read after a delivery is the one delivered (10_state.md R22). -/
theorem obuf_eq_of_finish {res : Results} {o : List Byte} (hfinish : exec i s = .next (finish res s))
    (hexec : exec i s = .next t) (ho : readObuf t = .ok o) : res.obuf = some o := by
  obtain rfl : finish res s = t := by rw [hfinish] at hexec; injection hexec
  exact readField_eq_ok.1 ho

/-- An operation that delivers `OBUF` is one of the four whose rules name it (10_state.md R22). -/
theorem exec_obuf_named {o : List Byte} (h : Ready s r rest) (hexec : exec i s = .next t) (ho : readObuf t = .ok o) :
    i = .crcapp ∨ i = .bsetv ∨ (∃ e, i = .benout e) ∨ i = .brdv := by
  obtain ⟨-, -, habsent, -⟩ := exactlyNamedFieldsDelivered s r rest i t h hexec
  by_contra hnamed
  rw [(habsent (.inr hnamed)).1] at ho
  cases ho

/-- CRCAPP delivers as many bytes as it was given (41_crc.md R115). -/
theorem execCrcapp_obuf_length {o : List Byte} (h : Ready s r rest) (hexec : exec .crcapp s = .next t)
    (ho : readObuf t = .ok o) : o.length = r.effLen := by
  have hanswer := execCrcapp_ready h
  split at hanswer
  · exact absurd ho (readObuf_ne_ok_of_fault hanswer hexec)
  · split at hanswer
    · exact absurd ho (readObuf_ne_ok_of_fault hanswer hexec)
    · obtain rfl := Option.some.inj (obuf_eq_of_finish hanswer hexec ho)
      simp

/-- The encoder's frames have 8, 7 and 6 bytes (30_encoding.md R69, R70, R71). -/
theorem encoder_obuf_length {o : List Byte} (h : Ready s r rest) (hexec : exec i s = .next t)
    (ho : readObuf t = .ok o) (hi : i = .bsetv ∨ (∃ e, i = .benout e) ∨ i = .brdv) : o.length ≤ 8 := by
  have hbound : s.bound = true := by
    by_contra hb
    exact readObuf_ne_ok_of_fault (exec_unbound h (by simpa using hb) (by tauto)) hexec ho
  obtain rfl | ⟨e, rfl⟩ | rfl := hi
  · have hanswer := execBsetv_bound h hbound
    split at hanswer
    · exact absurd ho (readObuf_ne_ok_of_fault hanswer hexec)
    · obtain rfl := Option.some.inj (obuf_eq_of_finish hanswer hexec ho)
      simp [setVoltageBody]
  · obtain rfl := Option.some.inj (obuf_eq_of_finish (execBenout_bound e h hbound) hexec ho)
    simp [enableOutputBody]
  · obtain rfl := Option.some.inj (obuf_eq_of_finish (execBrdv_bound h hbound) hexec ho)
    simp [readVoltageBody]

/-- A delivered buffer is as long as the input, or has at most 8 bytes (20_memory.md R41). -/
theorem exec_obuf_length {o : List Byte} (h : Ready s r rest) (hexec : exec i s = .next t)
    (ho : readObuf t = .ok o) : o.length = r.effLen ∨ o.length ≤ 8 := by
  obtain rfl | hi := exec_obuf_named h hexec ho
  · exact .inl (execCrcapp_obuf_length h hexec ho)
  · exact .inr (encoder_obuf_length h hexec ho hi)

/-- Settles O27: an output is as long as the input, which fits, or at most 8 bytes long. -/
theorem outputFitsCapacity : Obligations.OutputFitsCapacity := by
  unfold Obligations.OutputFitsCapacity
  intro cap s r rest i t o hcap hready hfits hexec ho
  have hibuf : r.effLen ≤ cap := r.effLen_le.trans hfits.1
  obtain hlen | hlen := exec_obuf_length hready hexec ho
  · exact hlen.trans_le hibuf
  · exact hlen.trans hcap

end Sys2Proof.Machine
end

section
/-! The step runs the operation that the presented word decodes to (20_memory.md R51; 30_encoding.md R60). -/

namespace Sys2Proof.Machine

variable {s : State} {r : Request} {rest : List HostMove} {i : Instr}

theorem step_ready (h : Ready s r rest) (hdecode : decode r.cmd = .ok i) : step s = exec i s := by
  simp [step, faultNone, h.1, h.2, hdecode]

/-- The request that `withFetchWord` presents carries the whole word (log 13). -/
theorem withFetchWord_ready (w : Word) (hf : s.fault = 0#4) :
    Ready (s.withFetchWord 16 w.toNat) { cmd := w, ibuf := [], ibufValid := false, len := 0, vin := 0 } s.host := by
  have hword : BitVec.ofNat 16 (w.toNat % 2 ^ 16) = w := by
    rw [Nat.mod_eq_of_lt w.isLt, BitVec.ofNat_toNat, BitVec.setWidth_eq]
  refine ⟨hf, ?_⟩
  rw [State.withFetchWord, hword]

/-- Settles O7, by the step of a presented request, which in the second clause is the one that `withFetchWord`
presents. -/
theorem stepRunsDecodedOperation : Obligations.StepRunsDecodedOperation := by
  unfold Obligations.StepRunsDecodedOperation
  exact ⟨fun _ _ _ _ hready hdecode => step_ready hready hdecode,
    fun _ w _ hf hdecode => step_ready (withFetchWord_ready w hf) hdecode⟩

end Sys2Proof.Machine
end

section
/-! The fields of a command word put together and taken apart (30_encoding.md R61). -/

namespace Sys2Proof

variable (imm8 : BitVec 8) (rsv : BitVec 3) (e : BitVec 1) (op : BitVec 4) (rest : BitVec 12) (w : Word)

/-- Bit `k` of a word put together from its fields lies in the field that R61 gives it. -/
theorem commandWord_getLsbD (k : Nat) :
    (commandWord imm8 rsv e op).getLsbD k =
      if k < 4 then op.getLsbD k else if k < 5 then e.getLsbD (k - 4)
      else if k < 8 then rsv.getLsbD (k - 5) else imm8.getLsbD (k - 8) := by
  have happend : commandWord imm8 rsv e op =
      (imm8 ++ (rsv ++ (e ++ op : BitVec (1 + 4)) : BitVec (3 + (1 + 4))) : BitVec (8 + (3 + (1 + 4)))) := rfl
  rw [happend, BitVec.getLsbD_append, BitVec.getLsbD_append, BitVec.getLsbD_append]
  grind

@[simp] theorem opField_commandWord : opField (commandWord imm8 rsv e op) = op := by
  ext k hk
  simp [opField, commandWord_getLsbD, hk]

@[simp] theorem eField_commandWord : eField (commandWord imm8 rsv e op) = e.getLsbD 0 := by
  rw [eField, commandWord_getLsbD]
  rfl

@[simp] theorem rsvField_commandWord : rsvField (commandWord imm8 rsv e op) = rsv := by
  ext k hk
  simp [rsvField, commandWord_getLsbD, show ¬ 5 + k < 4 by omega, show 5 + k < 8 by omega, hk]

@[simp] theorem imm8Field_commandWord : imm8Field (commandWord imm8 rsv e op) = imm8 := by
  ext k hk
  simp [imm8Field, commandWord_getLsbD, show ¬ 8 + k < 4 by omega, show ¬ 8 + k < 5 by omega, hk]

/-- The four fields are the whole word: R61 leaves no bit out. -/
theorem commandWord_fields :
    commandWord (imm8Field w) (rsvField w) (BitVec.ofBool (eField w)) (opField w) = w := by
  apply BitVec.eq_of_getLsbD_eq
  intro k hk
  rw [commandWord_getLsbD]
  split_ifs with hop he hrsv
  · simp [opField, hop]
  · obtain rfl : k = 4 := by omega
    simp [eField]
  · simp [rsvField, show k - 5 < 3 by omega, show 5 + (k - 5) = k by omega]
  · simp [imm8Field, show k - 8 < 8 by omega, show 8 + (k - 8) = k by omega]

@[simp] theorem opField_append : opField (rest ++ op : BitVec (12 + 4)) = op :=
  BitVec.extractLsb'_append_eq_right

@[simp] theorem highBits_append : (rest ++ op : BitVec (12 + 4)).extractLsb' 4 12 = rest :=
  BitVec.extractLsb'_append_eq_left

/-- `OP` and the twelve bits above it are the whole word. -/
theorem append_opField : (w.extractLsb' 4 12 ++ opField w : BitVec (12 + 4)) = w := by
  apply BitVec.eq_of_getLsbD_eq
  intro k hk
  rw [BitVec.getLsbD_append]
  simp only [opField, BitVec.getLsbD_extractLsb']
  grind

end Sys2Proof
end

section
/-! What the decoder does with a word: the checks of R65 for the ten operation codes, and acceptance for the six
reserved ones (30_encoding.md R62, R65, R66). -/

namespace Sys2Proof

variable {w : Word} {i j : Instr} {readsE readsImm8 : Bool}

/-- The checks pass exactly when `RSV` is 0 and the operation reads each of `E` and `IMM8` that is not 0
(30_encoding.md R65). -/
theorem checked_eq_ok : checked w readsE readsImm8 i = .ok j ↔
    rsvField w = 0#3 ∧ (eField w = true → readsE = true) ∧ (imm8Field w ≠ 0#8 → readsImm8 = true) ∧ i = j := by
  unfold checked
  split_ifs with hrsv he himm8
  · simp [hrsv]
  · simp_all
  · simp_all
  · simp_all

/-- The ten operation codes: the decoder makes the checks of R65, of which BENOUT's row lifts the one on `E` and BIND's
the one on `IMM8`, and the instruction's command word holds the operand that its row reads and zeros elsewhere. -/
theorem decode_operation (h : (opField w).toNat < 10) :
    ∃ i : Instr, i.wf = true ∧ decode w = checked w (opField w = 5#4) (opField w = 3#4) i ∧
      encode i = commandWord (if opField w = 3#4 then imm8Field w else 0#8) 0#3
        (if opField w = 5#4 then BitVec.ofBool (eField w) else 0#1) (opField w) := by
  have hcode : ∀ op : BitVec 4, op.toNat < 10 → op = 0#4 ∨ op = 1#4 ∨ op = 2#4 ∨ op = 3#4 ∨ op = 4#4 ∨ op = 5#4 ∨
      op = 6#4 ∨ op = 7#4 ∨ op = 8#4 ∨ op = 9#4 := by decide
  obtain hop | hop | hop | hop | hop | hop | hop | hop | hop | hop := hcode _ h
  · exact ⟨.crc, by simp [Instr.wf, decode, encode, hop]⟩
  · exact ⟨.crcapp, by simp [Instr.wf, decode, encode, hop]⟩
  · exact ⟨.fval, by simp [Instr.wf, decode, encode, hop]⟩
  · exact ⟨.bind (imm8Field w), by simp [Instr.wf, decode, encode, hop]⟩
  · exact ⟨.bsetv, by simp [Instr.wf, decode, encode, hop]⟩
  · exact ⟨.benout (eField w), by simp [Instr.wf, decode, encode, hop]⟩
  · exact ⟨.brdv, by simp [Instr.wf, decode, encode, hop]⟩
  · exact ⟨.rval, by simp [Instr.wf, decode, encode, hop]⟩
  · exact ⟨.rerr, by simp [Instr.wf, decode, encode, hop]⟩
  · exact ⟨.rparsev, by simp [Instr.wf, decode, encode, hop]⟩

/-- The six reserved operation codes: the decoder accepts every word as its reserved row, whose command word holds all
bits above `OP` (30_encoding.md R66). -/
theorem decode_reserved (h : 10 ≤ (opField w).toNat) :
    ∃ i : Instr, i.wf = false ∧ decode w = .ok i ∧ encode i = w.extractLsb' 4 12 ++ opField w := by
  have hcode : ∀ op : BitVec 4, 10 ≤ op.toNat → op = 10#4 ∨ op = 11#4 ∨ op = 12#4 ∨ op = 13#4 ∨ op = 14#4 ∨
      op = 15#4 := by decide
  obtain hop | hop | hop | hop | hop | hop := hcode _ h
  · exact ⟨.reservedA (w.extractLsb' 4 12), by simp [Instr.wf, decode, encode, hop]⟩
  · exact ⟨.reservedB (w.extractLsb' 4 12), by simp [Instr.wf, decode, encode, hop]⟩
  · exact ⟨.reservedC (w.extractLsb' 4 12), by simp [Instr.wf, decode, encode, hop]⟩
  · exact ⟨.reservedD (w.extractLsb' 4 12), by simp [Instr.wf, decode, encode, hop]⟩
  · exact ⟨.reservedE (w.extractLsb' 4 12), by simp [Instr.wf, decode, encode, hop]⟩
  · exact ⟨.reservedF (w.extractLsb' 4 12), by simp [Instr.wf, decode, encode, hop]⟩

/-- An encoding selects its own row, and passes the checks of R65, as the encoder sets no bit that the row does not
read. -/
theorem decode_encode (i : Instr) : decode (encode i) = .ok i := by
  cases i with
  | crc | crcapp | fval | bind _ | bsetv | benout _ | brdv | rval | rerr | rparsev => simp [encode, decode, checked]
  | reservedA _ | reservedB _ | reservedC _ | reservedD _ | reservedE _ | reservedF _ =>
    simp [encode, decode]

/-- An accepted word is put back together by the encoder: a reserved row keeps all bits above `OP`, and the bits that an
operation's row drops are 0 by the checks of R65. -/
theorem encode_of_decode (h : decode w = .ok i) : encode i = w := by
  obtain hop | hop := lt_or_ge (opField w).toNat 10
  · obtain ⟨j, -, hdecode, hencode⟩ := decode_operation hop
    rw [hdecode] at h
    obtain ⟨hrsv, he, himm8, rfl⟩ := checked_eq_ok.1 h
    have himm8' : (if opField w = 3#4 then imm8Field w else 0#8) = imm8Field w := by
      split <;> simp_all
    have he' : (if opField w = 5#4 then BitVec.ofBool (eField w) else 0#1) = BitVec.ofBool (eField w) := by
      split <;> simp_all
    rw [hencode, himm8', he', ← hrsv, commandWord_fields]
  · obtain ⟨j, -, hdecode, hencode⟩ := decode_reserved hop
    obtain rfl : j = i := by rw [hdecode] at h; injection h
    rw [hencode, append_opField]

end Sys2Proof
end

section
/-! The statements about the command word: the round trip, the words the decoder accepts, and what an illegal word does
(30_encoding.md R60 to R67). -/

namespace Sys2Proof.Machine

variable {s : State} {r : Request} {rest : List HostMove} {w : Word} {i : Instr}

/-- Settles O1, by the fields of each row's command word. -/
theorem decodeOfEncode : Obligations.DecodeOfEncode := by
  unfold Obligations.DecodeOfEncode
  exact decode_encode

/-- Settles O2, by the fields of the word, of which the decoder has checked the ones the row does not keep. -/
theorem encodeOfDecode : Obligations.EncodeOfDecode := by
  unfold Obligations.EncodeOfDecode
  exact fun _ _ => encode_of_decode

/-- A word is legal when its operation code is one of the ten and the checks of R65 pass. -/
theorem not_illegalWord_iff : ¬ IllegalWord w ↔ (opField w).toNat < 10 ∧ rsvField w = 0#3 ∧
    (eField w = true → opField w = 5#4) ∧ (imm8Field w ≠ 0#8 → opField w = 3#4) := by
  simp only [IllegalWord, opField, rsvField, eField, imm8Field]
  grind

/-- The decoder reads one of the ten operations exactly from the legal words. -/
theorem decode_wf_iff : (∃ i : Instr, decode w = .ok i ∧ i.wf = true) ↔ ¬ IllegalWord w := by
  rw [not_illegalWord_iff]
  obtain hop | hop := lt_or_ge (opField w).toNat 10
  · obtain ⟨j, hwf, hdecode, -⟩ := decode_operation hop
    rw [hdecode]
    constructor
    · rintro ⟨i, hok, -⟩
      obtain ⟨hrsv, he, himm8, -⟩ := checked_eq_ok.1 hok
      exact ⟨hop, hrsv, by simpa using he, by simpa using himm8⟩
    · rintro ⟨-, hrsv, he, himm8⟩
      exact ⟨j, checked_eq_ok.2 ⟨hrsv, by simpa using he, by simpa using himm8, rfl⟩, hwf⟩
  · obtain ⟨j, hwf, hdecode, -⟩ := decode_reserved hop
    constructor
    · rintro ⟨i, hok, hi⟩
      obtain rfl : j = i := by rw [hdecode] at hok; injection hok
      exact absurd (hwf.symm.trans hi) Bool.false_ne_true
    · rintro ⟨hlegal, -⟩
      exact absurd hlegal (by omega)

/-- Settles O3, by the checks of R65 on the ten operation codes and the rows of the six reserved ones. -/
theorem decoderAcceptsExactlyLegalWords : Obligations.DecoderAcceptsExactlyLegalWords := by
  unfold Obligations.DecoderAcceptsExactlyLegalWords
  exact fun _ => decode_wf_iff

/-- The operations that are not well-formed are the reserved ones, and their effect is that of an illegal command word
(30_encoding.md R66). -/
theorem exec_of_not_wf (hi : i.wf = false) (s : State) : exec i s = illegalCommand s := by
  cases i with
  | crc | crcapp | fval | bind _ | bsetv | benout _ | brdv | rval | rerr | rparsev => cases hi
  | reservedA _ | reservedB _ | reservedC _ | reservedD _ | reservedE _ | reservedF _ => rfl

/-- A step on a word that the decoder rejects (30_encoding.md R65). -/
theorem step_ready_rejected {e : DecodeError} (h : Ready s r rest) (hdecode : decode r.cmd = .error e) :
    step s = illegalCommand s := by
  simp [step, faultNone, h.1, h.2, hdecode]

/-- An illegal word is rejected by the decoder or read as a reserved operation; the step takes the same fault on both
(log 23). -/
theorem step_illegalWord (h : Ready s r rest) (hillegal : IllegalWord r.cmd) : step s = illegalCommand s := by
  cases hdecode : decode r.cmd with
  | error e => exact step_ready_rejected h hdecode
  | ok i =>
    have hwf : i.wf = false := by
      by_contra hi
      exact decode_wf_iff.1 ⟨i, hdecode, by simpa using hi⟩ hillegal
    rw [step_ready h hdecode, exec_of_not_wf hwf]

/-- Settles O5: whichever way the word is illegal, the step is the fault entry of ILLEGAL_CMD. -/
theorem illegalWordFaults : Obligations.IllegalWordFaults := by
  unfold Obligations.IllegalWordFaults
  intro s r rest hready hillegal
  rw [step_illegalWord hready hillegal, illegalCommand_ready hready]
  rfl

/-- Settles O24, by the answer that the two requests share, in a halted block too. -/
theorem unreadOperandsHaveNoEffect : Obligations.UnreadOperandsHaveNoEffect := by
  unfold Obligations.UnreadOperandsHaveNoEffect
  exact fun _ s _ _ rest hcmd hop => exec_sameOperands s rest hcmd hop

/-- Settles O4: the accepted words are encodings, and the rejected ones fail the checks of R65 in the model's order
(log 23). -/
theorem knownWordsDecode : Obligations.KnownWordsDecode := by
  unfold Obligations.KnownWordsDecode
  exact ⟨decode_encode .crc, decode_encode (.bind 0x06#8), decode_encode (.benout true), decode_encode .rparsev,
    decode_encode (.reservedA 0x123#12), by decide, by decide, by decide, by decide⟩

/-- An operation that is not well-formed, presented to a block that is not halted, takes ILLEGAL_CMD. -/
theorem exec_ready_of_not_wf (h : Ready s r rest) (hi : i.wf = false) : exec i s = .next (faulted 1#4 r s) :=
  (exec_of_not_wf hi s).trans (illegalCommand_ready h)

/-- Settles O6: the six operations are the ones that are not well-formed. -/
theorem reservedOperationsFault : Obligations.ReservedOperationsFault := by
  unfold Obligations.ReservedOperationsFault
  intro s r rest bits hready
  exact ⟨exec_ready_of_not_wf hready rfl, exec_ready_of_not_wf hready rfl, exec_ready_of_not_wf hready rfl,
    exec_ready_of_not_wf hready rfl, exec_ready_of_not_wf hready rfl, exec_ready_of_not_wf hready rfl⟩

end Sys2Proof.Machine
end

section
/-! The invariant of the block is kept by every step (00_scope.md R6; 40_config.md R101; 60_exceptions.md R200, R201,
R205; 43_frame_decode.md R173). -/

namespace Sys2Proof.Machine

variable {s t : State} {r : Request} {rest : List HostMove} {i : Instr} {res : Results} {a : Byte}

/-- What the invariant says of the result fields of a block with the parameters `p`. -/
structure Results.WellFormed (p : Params) (res : Results) : Prop where
  status_value : ∀ v, res.status = some v → v = 0#2 ∨ v = 1#2
  status_first : res.status = none → res = Results.absent
  reading : ∀ v, res.rvolt = some v → v = p.parseSentinel ∨ ∃ raw : Word, v = (raw.toNat : Rat) / 10

theorem Results.absent_wellFormed (p : Params) : Results.absent.WellFormed p where
  status_value := nofun
  status_first := fun _ => rfl
  reading := nofun

/-- A delivery of `STATUS` OK or INVALID_ADDRESS, with no reading (60_exceptions.md R205). -/
theorem Results.wellFormed_of_status (p : Params) {st : BitVec 2} (hst : st = 0#2 ∨ st = 1#2)
    (hstatus : res.status = some st) (hrvolt : res.rvolt = none) : res.WellFormed p where
  status_value := by simpa [hstatus] using hst
  status_first := by simp [hstatus]
  reading := by simp [hrvolt]

/-- A reading is the sentinel or a tenth of the 16-bit code in the frame (43_frame_decode.md R173, R174). -/
theorem voltageReading_sentinel_or_tenth (sentinel : Rat) (f : List Byte) :
    voltageReading sentinel f = sentinel ∨ ∃ raw : Word, voltageReading sentinel f = (raw.toNat : Rat) / 10 := by
  unfold voltageReading
  split
  · exact .inl rfl
  · exact .inr ⟨_, Rat.mkRat_eq_div _ _⟩

/-- BIND's `STATUS` is OK or INVALID_ADDRESS (40_config.md R100). -/
theorem execBind_results_wellFormed (h : Ready s r rest) (hexec : exec (.bind a) s = .next t) :
    t.results.WellFormed s.params := by
  rw [execBind_ready a h] at hexec
  injection hexec with ht
  subst ht
  split
  · exact Results.absent_wellFormed _
  · split
    · exact Results.wellFormed_of_status _ (.inl rfl) rfl rfl
    · exact Results.wellFormed_of_status _ (.inr rfl) rfl rfl

/-- RPARSEV's reading (43_frame_decode.md R173), or the absence of one in an unbound block. -/
theorem execRparsev_results_wellFormed (h : Ready s r rest) (hexec : exec .rparsev s = .next t) :
    t.results.WellFormed s.params := by
  cases hb : s.bound with
  | false =>
    rw [exec_unbound h hb (by simp)] at hexec
    injection hexec with ht
    subst ht
    exact Results.absent_wellFormed _
  | true =>
    rw [execRparsev_bound h hb] at hexec
    injection hexec with ht
    subst ht
    exact {
      status_value := by simp
      status_first := by simp
      reading := by simpa using voltageReading_sentinel_or_tenth s.params.parseSentinel r.buffer }

/-- Whatever the state before, the results after an operation are as the invariant asks: only BIND has a `STATUS` other
than OK, and only RPARSEV a reading. -/
theorem exec_results_wellFormed (h : Ready s r rest) (hexec : exec i s = .next t) :
    t.results.WellFormed s.params := by
  obtain ⟨code, hanswer⟩ | ⟨u, hanswer, -, hres⟩ := exec_ready_answer i h
  · obtain rfl : enterFault code r s = t := by rw [hanswer] at hexec; injection hexec
    exact Results.absent_wellFormed _
  · obtain rfl : u = t := by rw [hanswer] at hexec; injection hexec
    generalize hu : u.results = res at hres
    cases hres with
    | bind a st => exact hu ▸ execBind_results_wellFormed h hexec
    | rparsev v => exact hu ▸ execRparsev_results_wellFormed h hexec
    | crc | crcapp | fval | bsetv | benout | brdv | rval | rerr =>
      exact Results.wellFormed_of_status _ (.inl rfl) rfl rfl

/-- Fault codes 7 to 15 are never produced (60_exceptions.md R200). -/
theorem faultValue_toNat_le (code : FaultCode) : (faultValue code).toNat ≤ 6 := by
  cases code <;> decide

/-- The addresses that BIND accepts (40_config.md R100), as numbers. -/
theorem addr_range_iff : addrMin ≤ a ∧ a ≤ addrMax ↔ 1 ≤ a.toNat ∧ a.toNat ≤ 6 := by
  simp [BitVec.le_def, addrMin, addrMax]

/-- A fault entry keeps the invariant, the binding and the parameters included (60_exceptions.md R201). -/
theorem Invariant.enterFault (hinv : Invariant s) (code : FaultCode) (r : Request) :
    Invariant (enterFault code r s) where
  params_wf := hinv.params_wf
  bound_addr := hinv.bound_addr
  fault_code := faultValue_toNat_le code
  halted_results := fun _ => rfl
  status_value := nofun
  status_first := fun _ => rfl
  reading := nofun

/-- A reset leaves the block unbound, without fault and without results, and with its own parameters
(70_reset_and_hazards.md R230; log 17). -/
theorem Invariant.resetBlock (hinv : Invariant s) (rest : List HostMove) : Invariant (resetBlock s rest) where
  params_wf := hinv.params_wf
  bound_addr := nofun
  fault_code := Nat.zero_le 6
  halted_results := fun _ => rfl
  status_value := nofun
  status_first := fun _ => rfl
  reading := nofun

/-- A binding to an address of 1..6 keeps the invariant (40_config.md R101). -/
theorem Invariant.withBinding (hinv : Invariant s) (ha : 1 ≤ a.toNat ∧ a.toNat ≤ 6) :
    Invariant { s with devAddr := a, bound := true } :=
  { hinv with bound_addr := fun _ => ha }

/-- A delivery of well-formed results by a block that is not halted keeps the invariant. -/
theorem Invariant.finish (hinv : Invariant s) (hf : s.fault = 0#4) (hres : res.WellFormed s.params) :
    Invariant (finish res s) where
  params_wf := hinv.params_wf
  bound_addr := hinv.bound_addr
  fault_code := hinv.fault_code
  halted_results := fun hhalted => absurd hf hhalted
  status_value := hres.status_value
  status_first := hres.status_first
  reading := hres.reading

/-- An operation keeps the invariant, whether it takes a fault, binds the address, or delivers. -/
theorem exec_keeps_invariant (hinv : Invariant s) (hexec : exec i s = .next t) : Invariant t := by
  obtain ⟨hf, r, rest, hhost, houtcome⟩ := exec_next hexec
  have hres : t.results.WellFormed s.params := exec_results_wellFormed ⟨hf, hhost⟩ hexec
  obtain ⟨code, rfl⟩ | ⟨a, -, -, hmin, hmax, rfl⟩ | ⟨res, rfl⟩ := houtcome
  · exact hinv.enterFault code r
  · exact (hinv.withBinding (addr_range_iff.1 ⟨hmin, hmax⟩)).finish hf hres
  · exact hinv.finish hf hres

/-- Settles O19, by the inversion of the step: each of its five outcomes keeps the invariant. -/
theorem stepKeepsInvariant : Obligations.StepKeepsInvariant := by
  unfold Obligations.StepKeepsInvariant
  intro s t hinv hstep
  obtain ⟨rest, -, -, rfl⟩ | ⟨-, -, rfl⟩ | ⟨rest, -, -, rfl⟩ | ⟨_, _, _, -, -, -, hexec⟩ |
    ⟨r, _, _, -, -, -, rfl⟩ := step_next hstep
  · exact hinv.resetBlock rest
  · exact hinv
  · exact hinv.resetBlock rest
  · exact exec_keeps_invariant hinv hexec
  · exact hinv.enterFault .illegalCmd r

end Sys2Proof.Machine
end

section
/-! The binding of the address (40_config.md R100, R101). -/

namespace Sys2Proof.Machine

variable {s t : State} {r : Request} {rest : List HostMove} {i : Instr} {w : Word}

/-- BIND's command word: the address above the operation code, `RSV` and `E` zero (40_config.md R100). -/
theorem encode_bind (imm8 : Byte) : encode (.bind imm8) = imm8 ++ 0x03#8 := rfl

/-- BIND's row lifts the check on `IMM8` only: with a bit set in `RSV` or `E` its word is rejected
(30_encoding.md R65). -/
theorem decode_bind_rejected (hop : opField w = 3#4) (hbits : rsvField w ≠ 0#3 ∨ eField w = true) :
    ∃ e, decode w = .error e := by
  cases hdecode : decode w with
  | error e => exact ⟨e, rfl⟩
  | ok i =>
    obtain ⟨j, -, hchecked, -⟩ := decode_operation (w := w) (by simp [hop])
    obtain ⟨hrsv, he, -, -⟩ := checked_eq_ok.1 (hchecked.symm.trans hdecode)
    obtain hset | hset := hbits
    · exact absurd hrsv hset
    · exact absurd (he hset) (by simp [hop])

/-- Settles O28, by BIND's command word, the checks of R65 on it, and BIND's answer to a presented request. -/
theorem bindOutcomes : Obligations.BindOutcomes := by
  unfold Obligations.BindOutcomes
  refine ⟨fun imm8 => encode_bind imm8 ▸ decode_encode (.bind imm8), fun w => decode_bind_rejected,
    fun s r rest imm8 hready => ⟨fun hb => ?_, fun hb hmin hmax => ?_, fun hb hout => ?_⟩⟩
  · rw [execBind_ready imm8 hready, if_pos hb]
    rfl
  · refine ⟨finish okResults { s with devAddr := imm8, bound := true }, ?_, rfl, rfl, rfl, rfl, rfl, rfl, ?_⟩
    · rw [execBind_ready imm8 hready, hb, if_neg Bool.false_ne_true, if_pos (addr_range_iff.2 ⟨hmin, hmax⟩)]
    · simp [hready.2]
  · have hrange : ¬ (addrMin ≤ imm8 ∧ imm8 ≤ addrMax) := mt addr_range_iff.1 (by omega)
    refine delivers_of_finish ?_
    rw [execBind_ready imm8 hready, hb, if_neg Bool.false_ne_true, if_neg hrange]
    rfl

/-- No operation unbinds a bound block or changes its address (40_config.md R101). -/
theorem exec_keeps_binding (hb : s.bound = true) (hexec : exec i s = .next t) :
    t.bound = true ∧ t.devAddr = s.devAddr := by
  obtain ⟨-, r, rest, -, ⟨code, rfl⟩ | ⟨a, -, hunbound, -⟩ | ⟨res, rfl⟩⟩ := exec_next hexec
  · exact ⟨hb, rfl⟩
  · exact absurd (hunbound.symm.trans hb) Bool.false_ne_true
  · exact ⟨hb, rfl⟩

/-- A step of a block that is not halted keeps the binding, unless it is a reset (40_config.md R101). -/
theorem step_keeps_binding (hf : s.fault = 0#4) (hhost : s.host.head? ≠ some .reset) (hb : s.bound = true)
    (hstep : step s = .next t) : t.bound = true ∧ t.devAddr = s.devAddr := by
  obtain ⟨rest, hhalted, -⟩ | ⟨-, -, rfl⟩ | ⟨rest, -, hreset, -⟩ | ⟨_, _, _, -, -, -, hexec⟩ |
    ⟨r, _, _, -, -, -, rfl⟩ := step_next hstep
  · exact absurd hf hhalted
  · exact ⟨hb, rfl⟩
  · exact absurd (by rw [hreset]; rfl) hhost
  · exact exec_keeps_binding hb hexec
  · exact ⟨hb, rfl⟩

/-- An encoder that delivers a frame is bound, and the frame starts with its address (30_encoding.md R69, R70, R71). -/
theorem encoder_obuf_head {o : List Byte} (h : Ready s r rest) (hexec : exec i s = .next t)
    (ho : readObuf t = .ok o) (hi : i = .bsetv ∨ (∃ e, i = .benout e) ∨ i = .brdv) :
    s.bound = true ∧ o.head? = some s.devAddr := by
  have hbound : s.bound = true := by
    by_contra hb
    exact readObuf_ne_ok_of_fault (exec_unbound h (by simpa using hb) (by tauto)) hexec ho
  refine ⟨hbound, ?_⟩
  obtain rfl | ⟨e, rfl⟩ | rfl := hi
  · have hanswer := execBsetv_bound h hbound
    split at hanswer
    · exact absurd ho (readObuf_ne_ok_of_fault hanswer hexec)
    · obtain rfl := Option.some.inj (obuf_eq_of_finish hanswer hexec ho)
      rfl
  · obtain rfl := Option.some.inj (obuf_eq_of_finish (execBenout_bound e h hbound) hexec ho)
    rfl
  · obtain rfl := Option.some.inj (obuf_eq_of_finish (execBrdv_bound h hbound) hexec ho)
    rfl

/-- Settles O29: the range of the address is a clause of the invariant, which the step keeps; no step but a reset
touches a binding; and the encoders put the bound address first. -/
theorem bindingInvariant : Obligations.BindingInvariant := by
  unfold Obligations.BindingInvariant
  refine ⟨fun s t hinv hstep => (stepKeepsInvariant s t hinv hstep).bound_addr,
    fun s t hf hhost hstep hb => step_keeps_binding hf hhost hb hstep, ?_⟩
  intro s r rest t o e hinv hready hencoder ho
  have hhead : s.bound = true ∧ o.head? = some s.devAddr := by
    obtain hexec | hexec | hexec := hencoder
    · exact encoder_obuf_head hready hexec ho (.inl rfl)
    · exact encoder_obuf_head hready hexec ho (.inr (.inl ⟨e, rfl⟩))
    · exact encoder_obuf_head hready hexec ho (.inr (.inr rfl))
  obtain ⟨hb, hhead⟩ := hhead
  exact ⟨s.devAddr, hhead, rfl, hinv.bound_addr hb⟩

end Sys2Proof.Machine
end

section
/-! Which operations read the binding (40_config.md R102). -/

namespace Sys2Proof.Machine

variable {s : State} {r : Request} {rest : List HostMove} {i : Instr}

/-- CRC, CRCAPP and FVAL run alike under any `BOUND`, and leave it as it is. -/
theorem exec_withBound (b : Bool) (h : Ready s r rest) (hi : i = .crc ∨ i = .crcapp ∨ i = .fval) :
    ∃ t, exec i s = .next t ∧ exec i { s with bound := b } = .next { t with bound := b } := by
  have hb : Ready { s with bound := b } r rest := h
  obtain rfl | rfl | rfl := hi
  · refine ⟨_, execCrc_ready h, ?_⟩
    rw [execCrc_ready hb]
    split <;> rfl
  · refine ⟨_, execCrcapp_ready h, ?_⟩
    rw [execCrcapp_ready hb]
    split
    · rfl
    · split <;> rfl
  · exact ⟨_, execFval_ready h, execFval_ready hb⟩

/-- RERR and RPARSEV run alike under any `DEV_ADDR`, bound or not, and leave it as it is. -/
theorem exec_withDevAddr (a : Byte) (h : Ready s r rest) (hi : i = .rerr ∨ i = .rparsev) :
    ∃ t, exec i s = .next t ∧ exec i { s with devAddr := a } = .next { t with devAddr := a } := by
  have ha : Ready { s with devAddr := a } r rest := h
  obtain hb | hb := Bool.eq_false_or_eq_true s.bound
  · obtain rfl | rfl := hi
    · exact ⟨_, execRerr_bound h hb, execRerr_bound ha hb⟩
    · exact ⟨_, execRparsev_bound h hb, execRparsev_bound ha hb⟩
  · have hprotocol : i = .bsetv ∨ (∃ e, i = .benout e) ∨ i = .brdv ∨ i = .rval ∨ i = .rerr ∨ i = .rparsev := by
      tauto
    exact ⟨_, exec_unbound h hb hprotocol, exec_unbound ha hb hprotocol⟩

/-- Settles O30: the six protocol operations fail the binding check before any operand is read, and the other
operations' answers do not name the register. -/
theorem protocolOperationsNeedBinding : Obligations.ProtocolOperationsNeedBinding := by
  unfold Obligations.ProtocolOperationsNeedBinding
  refine ⟨fun s r rest e hready hb => ?_, fun _ _ _ _ b hready hi => exec_withBound b hready hi,
    fun _ _ _ _ a hready hi => exec_withDevAddr a hready hi⟩
  refine ⟨?_, ?_, ?_, ?_, ?_, ?_⟩ <;> exact exec_unbound hready hb (by simp)

end Sys2Proof.Machine
end

section
/-! The byte step of the checksum, in the two forms that the spec gives, and the known values (41_crc.md R110 to R112,
R120). -/

namespace Sys2Proof.Machine

/-- The byte step is 8 bit steps of the register with the byte XORed into its low end (41_crc.md R111). -/
theorem crcByte_eq_iterate (c : Word) (b : Byte) : crcByte c b = crcBit^[8] (c ^^^ b.setWidth 16) := rfl

/-- Settles O31: folding a step over 8 indices that it does not read iterates it 8 times, and the bits of the byte in
the bit-serial form are those at the indices 0 to 7. -/
theorem crcByteIsBitSerial : Obligations.CrcByteIsBitSerial := by
  unfold Obligations.CrcByteIsBitSerial
  constructor
  · intro c b
    rw [crcByte_eq_iterate]
    exact (List.foldl_const crcBit _ (List.range 8)).symm
  · intro c b
    rw [crcByte_eq_foldl_serialBit, List.foldl_map]
    rfl

/-- Settles O32, by evaluation of the five closed values. -/
theorem knownChecksums : Obligations.KnownChecksums := by
  unfold Obligations.KnownChecksums
  exact ⟨crc16_nil, by decide +kernel, by decide +kernel, by decide +kernel, by decide +kernel⟩

end Sys2Proof.Machine
end

section
/-! What CRC, CRCAPP and FVAL answer (41_crc.md R114 to R116). -/

namespace Sys2Proof.Machine

/-- Settles O34: the two branches of CRC's answer. -/
theorem crcOutcomes : Obligations.CrcOutcomes := by
  unfold Obligations.CrcOutcomes
  refine ⟨decode_encode .crc, fun s r rest hready => ⟨fun hlen => ?_, fun hlen => ?_⟩⟩
  · have hexec := execCrc_ready hready
    rw [if_neg (by omega)] at hexec
    exact delivers_of_finish hexec
  · rw [execCrc_ready hready, if_pos hlen]
    rfl

/-- CRCAPP's output, byte by byte: the checksum at `len` and `len + 1`, the input elsewhere (41_crc.md R115). -/
theorem withChecksum_getElem? (f : List Byte) (len : Nat) (c : Word) (h : len + 2 ≤ f.length) (k : Nat) :
    (withChecksum f len c)[k]? =
      if k = len then some (lo8 c) else if k = len + 1 then some (hi8 c) else f[k]? := by
  simp only [withChecksum, List.getElem?_set, List.length_set, eq_comm (b := k)]
  have hlen : len < f.length := by omega
  have hlen' : len + 1 < f.length := by omega
  by_cases hlo : k = len
  · simp [hlo, hlen]
  · by_cases hhi : k = len + 1
    · simp [hhi, hlen']
    · simp [hlo, hhi]

/-- CRCAPP delivers its output where the buffer has room for the checksum after the covered bytes (41_crc.md R115). -/
theorem crcapp_delivers {s : State} {r : Request} {rest : List HostMove} (h : Ready s r rest)
    (hroom : r.len + 2 ≤ r.effLen) :
    Delivers .crcapp s (okObuf (withChecksum r.buffer r.len (crc16 (r.buffer.take r.len)))) := by
  have hexec := execCrcapp_ready h
  rw [if_neg (by omega), if_neg (by omega)] at hexec
  exact delivers_of_finish hexec

/-- Settles O35: the three branches of CRCAPP's answer. -/
theorem crcappOutcomes : Obligations.CrcappOutcomes := by
  unfold Obligations.CrcappOutcomes
  refine ⟨decode_encode .crcapp, fun s r rest hready => ⟨fun hroom => ?_, fun hlen => ?_, fun hlen hroom => ?_⟩⟩
  · exact ⟨_, crcapp_delivers hready hroom, by simp,
      withChecksum_getElem? r.buffer r.len _ (by simpa using hroom)⟩
  · rw [execCrcapp_ready hready, if_pos hlen]
    rfl
  · rw [execCrcapp_ready hready, if_neg (by omega), if_pos hroom]
    rfl

theorem frameValid_of_short {f : List Byte} (h : f.length < 3) : frameValid f = false := if_pos h

/-- From 3 bytes on, a frame is valid when its trailer is the checksum of its body, low byte first (41_crc.md R116). -/
theorem frameValid_append {body : List Byte} (h : body ≠ []) (lo hi : Byte) :
    frameValid (body ++ [lo, hi]) = (lo == lo8 (crc16 body) && hi == hi8 (crc16 body)) := by
  have hpos : 0 < body.length := List.length_pos_of_ne_nil h
  have hlong : ¬ (body ++ [lo, hi]).length < 3 := by
    rw [List.length_append, List.length_cons, List.length_singleton]
    omega
  rw [frameValid, if_neg hlong, covered_append, trailerMatches_append]

/-- FVAL delivers the validity of the effective buffer as a frame (41_crc.md R116). -/
theorem fval_delivers {s : State} {r : Request} {rest : List HostMove} (h : Ready s r rest) :
    Delivers .fval s (okRbit (frameValid r.buffer)) :=
  delivers_of_finish (execFval_ready h)

/-- Settles O36: FVAL's answer is `frameValid`, in its short and its framed case. -/
theorem fvalOutcomes : Obligations.FvalOutcomes := by
  unfold Obligations.FvalOutcomes
  refine ⟨decode_encode .fval, fun s r rest hready => ⟨fun hshort => ?_, fun body lo hi hbuf hlong => ?_⟩⟩
  · have hdelivers := fval_delivers hready
    rwa [frameValid_of_short (by simpa using hshort)] at hdelivers
  · have hbody : body ≠ [] := by
      rintro rfl
      have htwo : r.effLen = 2 := by rw [← r.buffer_length, hbuf]; rfl
      omega
    have hdelivers := fval_delivers hready
    rwa [hbuf, frameValid_append hbody] at hdelivers

/-- Every sequence of bytes can be presented to some block. -/
theorem exists_ready_buffer (f : List Byte) : ∃ s r rest, Ready s r rest ∧ r.buffer = f :=
  ⟨{ State.reset with host := [.op { cmd := encode .fval, ibuf := f, ibufValid := true, len := 0, vin := 0 }] },
    _, [], ⟨rfl, rfl⟩, rfl⟩

/-- FVAL answers the same on every presentation of a sequence of bytes: its validity as a frame. -/
theorem fvalGives_iff {f : List Byte} {v : Bool} : FvalGives f v ↔ frameValid f = v := by
  constructor
  · intro h
    obtain ⟨s, r, rest, hready, rfl⟩ := exists_ready_buffer f
    simpa [okRbit] using delivers_unique (fval_delivers hready) (h s r rest hready rfl)
  · rintro rfl s r rest hready rfl
    exact fval_delivers hready

end Sys2Proof.Machine
end

section
/-! The bit step, the byte step and the checksum as maps of the register: each is injective, and a register that they
bring down to a small value was that value moved up (41_crc.md R110, R111). -/

namespace Sys2Proof.Machine

/-- The bit that leaves the register comes back as bit 15, as `CRC_POLY` has that bit set and the shift clears it
(41_crc.md R110). -/
theorem crcBit_msb (c : Word) : (crcBit c).msb = c.getLsbD 0 := by
  unfold crcBit
  split
  · next h => simp only [h, crcPoly, BitVec.msb_xor, BitVec.msb_ushiftRight]; rfl
  · next h => rw [Bool.eq_false_of_not_eq_true h]; simp [BitVec.msb_ushiftRight]

/-- On an even register the bit step is a shift (41_crc.md R110). -/
theorem crcBit_toNat_of_even {c : Word} (h : c.getLsbD 0 = false) : (crcBit c).toNat = c.toNat / 2 := by
  rw [crcBit, if_neg (h ▸ Bool.false_ne_true), BitVec.toNat_ushiftRight, Nat.shiftRight_eq_div_pow]

theorem getLsbD_zero_eq (c : Word) : c.getLsbD 0 = decide (c.toNat % 2 = 1) := by
  simp [BitVec.getLsbD, Nat.testBit_zero]

/-- The bit step, undone on a value whose bit 15 is clear: the register was that value moved up by one place. -/
theorem crcBit_toNat_eq_iff {c : Word} {m : Nat} (hm : 2 * m < 2 ^ 16) :
    (crcBit c).toNat = m ↔ c.toNat = 2 * m := by
  have hlsb := getLsbD_zero_eq c
  constructor
  · intro h
    have heven : c.getLsbD 0 = false := by
      rw [← crcBit_msb, BitVec.msb_eq_false_iff_two_mul_lt]
      omega
    rw [crcBit_toNat_of_even heven] at h
    simp only [heven, false_eq_decide_iff] at hlsb
    omega
  · intro hc
    rw [crcBit_toNat_of_even (by rw [hlsb, hc]; simp), hc]
    omega

/-- `n` bit steps, undone on a value that `n` places up still fits the register. -/
theorem crcBit_iterate_toNat_eq_iff (n : Nat) {c : Word} {m : Nat} (hm : 2 ^ n * m < 2 ^ 16) :
    (crcBit^[n] c).toNat = m ↔ c.toNat = 2 ^ n * m := by
  induction n generalizing m with
  | zero => simp
  | succ n ih =>
    have hassoc : 2 ^ (n + 1) * m = 2 ^ n * (2 * m) := by ring
    have hdouble : 2 * m ≤ 2 ^ n * (2 * m) := Nat.le_mul_of_pos_left _ (by positivity)
    rw [Function.iterate_succ_apply', crcBit_toNat_eq_iff (by omega), ih (by omega), hassoc]

/-- The bit step is linear, with no constant term (41_crc.md R110). -/
theorem crcBit_xor_distrib (c d : Word) : crcBit (c ^^^ d) = crcBit c ^^^ crcBit d := by
  simp only [crcBit, BitVec.getLsbD_xor, BitVec.ushiftRight_xor_distrib]
  cases c.getLsbD 0 <;> cases d.getLsbD 0 <;>
    simp [BitVec.xor_assoc, BitVec.xor_comm (d >>> 1)]

theorem crcBit_injective : Function.Injective crcBit := by
  intro c d h
  have hzero : (crcBit (c ^^^ d)).toNat = 0 := by simp [crcBit_xor_distrib, h]
  rw [crcBit_toNat_eq_iff (by decide)] at hzero
  simpa [BitVec.toNat_inj] using hzero

/-- A byte XORed into the low end is XORed into the low byte (41_crc.md R111). -/
theorem lo8_xor_setWidth (c : Word) (x : Byte) : lo8 (c ^^^ x.setWidth 16) = lo8 c ^^^ x := by
  ext k hk
  have hk16 : k < 16 := by omega
  simp [lo8, hk16, BitVec.getLsbD_eq_getElem hk]

theorem crcByte_injective_left (b : Byte) : Function.Injective fun c => crcByte c b := by
  intro c d h
  simpa using crcBit_injective.iterate 8 h

theorem crcByte_injective_right (c : Word) : Function.Injective (crcByte c) := by
  intro a b h
  have hxor : c ^^^ a.setWidth 16 = c ^^^ b.setWidth 16 := crcBit_injective.iterate 8 h
  have hlo : lo8 c ^^^ a = lo8 c ^^^ b := by rw [← lo8_xor_setWidth, hxor, lo8_xor_setWidth]
  exact (BitVec.xor_right_inj _).1 hlo

/-- Different registers stay different while the same bytes are taken in. -/
theorem foldl_crcByte_injective (bytes : List Byte) : Function.Injective fun c => bytes.foldl crcByte c := by
  induction bytes with
  | nil => exact Function.injective_id
  | cons b bytes ih => exact ih.comp (crcByte_injective_left b)

/-- Two messages that differ in one byte have different checksums (41_crc.md R118). -/
theorem crc16_append_cons_ne (before after : List Byte) {b b' : Byte} (hne : b' ≠ b) :
    crc16 (before ++ b' :: after) ≠ crc16 (before ++ b :: after) := by
  intro heq
  rw [crc16_append, crc16_append] at heq
  exact hne (crcByte_injective_right _ (foldl_crcByte_injective after heq))

/-- Changing any one byte of a message changes its checksum (41_crc.md R118). -/
theorem crc16_set_ne {bytes : List Byte} {k : Nat} {b b' : Byte} (hb : bytes[k]? = some b) (hne : b' ≠ b) :
    crc16 (bytes.set k b') ≠ crc16 bytes := by
  obtain ⟨hk, rfl⟩ := List.getElem?_eq_some_iff.1 hb
  have hsplit := crc16_append_cons_ne (bytes.take k) (bytes.drop (k + 1)) hne
  simpa [List.set_eq_take_append_cons_drop, hk] using hsplit

end Sys2Proof.Machine
end

section
/-! The zero residue: the checksum of a body and two more bytes is 0 for its own checksum alone (41_crc.md R119). -/

namespace Sys2Proof.Machine

/-- A value is a byte moved up by 8 places when its low byte is 0 and its high byte is that byte. -/
theorem toNat_eq_shifted_iff (v : Word) (y : Byte) : v.toNat = 2 ^ 8 * y.toNat ↔ lo8 v = 0#8 ∧ hi8 v = y := by
  simp only [← BitVec.toNat_inj, lo8, hi8, BitVec.extractLsb'_toNat, Nat.shiftRight_eq_div_pow, BitVec.toNat_zero]
  omega

theorem hi8_xor_setWidth (c : Word) (x : Byte) : hi8 (c ^^^ x.setWidth 16) = hi8 c := by
  ext k hk
  simp [hi8]

/-- A byte brings the register down to 8 bits when it is the low byte of the register, and what is left is the high
byte. -/
theorem crcByte_eq_setWidth_iff (c : Word) (x y : Byte) :
    crcByte c x = y.setWidth 16 ↔ x = lo8 c ∧ y = hi8 c := by
  have hy : 2 ^ 8 * y.toNat < 2 ^ 16 := by omega
  calc crcByte c x = y.setWidth 16
      ↔ (crcBit^[8] (c ^^^ x.setWidth 16)).toNat = y.toNat := by
        rw [← BitVec.toNat_inj, crcByte_eq_iterate, BitVec.toNat_setWidth_of_le (by decide)]
    _ ↔ lo8 (c ^^^ x.setWidth 16) = 0#8 ∧ hi8 (c ^^^ x.setWidth 16) = y := by
        rw [crcBit_iterate_toNat_eq_iff 8 hy, toNat_eq_shifted_iff]
    _ ↔ x = lo8 c ∧ y = hi8 c := by
        rw [lo8_xor_setWidth, hi8_xor_setWidth, BitVec.xor_eq_zero_iff, eq_comm, eq_comm (a := y)]

/-- A byte brings the register to 0 when it is all that the register holds. -/
theorem crcByte_eq_zero_iff (c : Word) (y : Byte) : crcByte c y = 0#16 ↔ c = y.setWidth 16 := by
  rw [← BitVec.toNat_inj, crcByte_eq_iterate, BitVec.toNat_zero, crcBit_iterate_toNat_eq_iff 8 (by decide)]
  simp [← BitVec.toNat_inj]

/-- The zero residue, and its uniqueness (41_crc.md R119). -/
theorem crc16_append_eq_zero_iff (body : List Byte) (x y : Byte) :
    crc16 (body ++ [x, y]) = 0#16 ↔ x = lo8 (crc16 body) ∧ y = hi8 (crc16 body) := by
  rw [crc16_append, List.foldl_cons, List.foldl_cons, List.foldl_nil, crcByte_eq_zero_iff, crcByte_eq_setWidth_iff]

/-- A frame is valid when it has 3 bytes or more and its checksum as a whole is 0 (41_crc.md R119). -/
theorem frameValid_iff (f : List Byte) : frameValid f = true ↔ 3 ≤ f.length ∧ crc16 f = 0#16 := by
  by_cases hshort : f.length < 3
  · simp [frameValid_of_short hshort, Nat.not_le.2 hshort]
  · obtain ⟨body, lo, hi, rfl⟩ := exists_body_trailer f (by omega)
    have hbody : body ≠ [] := by
      rintro rfl
      exact hshort (by simp)
    rw [frameValid_append hbody, crc16_append_eq_zero_iff, Bool.and_eq_true, beq_iff_eq, beq_iff_eq]
    exact (and_iff_right (Nat.not_lt.1 hshort)).symm

/-- Settles O39: the two directions of the residue, and FVAL's answer by them. -/
theorem zeroResidue : Obligations.ZeroResidue := by
  unfold Obligations.ZeroResidue
  refine ⟨fun body => (crc16_append_eq_zero_iff body _ _).2 ⟨rfl, rfl⟩,
    fun body x y => (crc16_append_eq_zero_iff body x y).1, fun s r rest hready hlong => ?_⟩
  have hvalid : frameValid r.buffer = (crc16 r.buffer == 0x0000#16) := by
    rw [Bool.eq_iff_iff, frameValid_iff, beq_iff_eq, r.buffer_length]
    exact and_iff_right hlong
  exact hvalid ▸ fval_delivers hready

end Sys2Proof.Machine
end

section
/-! What FVAL says of frames: a checksum appended is accepted, and a single error is detected (41_crc.md R117, R118). -/

namespace Sys2Proof.Machine

/-- A non-empty body followed by its checksum is a valid frame (41_crc.md R117). -/
theorem frameValid_frame {body : List Byte} (h : body ≠ []) : frameValid (frame body (crc16 body)) = true := by
  rw [frame, frameValid_append h, beq_self_eq_true, beq_self_eq_true, Bool.and_self]

/-- On a buffer that ends two bytes after the covered ones, CRCAPP's output is the frame of those (41_crc.md R117). -/
theorem withChecksum_exact {f : List Byte} {len : Nat} (c : Word) (h : f.length = len + 2) :
    withChecksum f len c = frame (f.take len) c := by
  obtain ⟨body, x, y, rfl⟩ := exists_body_trailer f (by omega)
  obtain rfl : body.length = len := by simpa using h
  simp [withChecksum, frame]

/-- A frame with two more bytes is valid again only where these are 0: the register holds 0 when they come in
(41_crc.md R117). -/
theorem not_frameValid_frame_append {x y : Byte} (body : List Byte) (h : x ≠ 0#8 ∨ y ≠ 0#8) :
    frameValid (frame body (crc16 body) ++ [x, y]) = false := by
  have hresidue : crc16 (frame body (crc16 body)) = 0#16 := (crc16_append_eq_zero_iff body _ _).2 ⟨rfl, rfl⟩
  rw [frameValid_append (by simp [frame]), hresidue]
  rcases h with h | h <;> simp [h, lo8, hi8]

/-- Settles O37: the output of CRCAPP is the frame of the covered bytes, which is too short for `LEN = 0`; in the longer
buffer two bytes follow it. -/
theorem checksumRoundTrip : Obligations.ChecksumRoundTrip := by
  unfold Obligations.ChecksumRoundTrip
  refine ⟨fun body hbody => fvalGives_iff.2 (frameValid_frame hbody), fun s r rest hready hlen hexact => ?_,
    fun s r rest hready hlen hexact => ?_, fun s r rest hready hlen hbuf => ?_⟩
  · refine ⟨_, crcapp_delivers hready (by omega), fvalGives_iff.2 ?_⟩
    have hbuf : r.buffer.length = r.len + 2 := r.buffer_length.trans hexact
    rw [withChecksum_exact _ hbuf]
    exact frameValid_frame (List.ne_nil_of_length_pos (by rw [List.length_take]; omega))
  · refine ⟨_, crcapp_delivers hready (by omega), fvalGives_iff.2 (frameValid_of_short ?_)⟩
    rw [withChecksum_length, r.buffer_length, hexact]
    decide
  · have hroom : r.len + 2 ≤ r.effLen := by
      rw [← r.buffer_length, hbuf, hlen]
      decide
    refine ⟨_, crcapp_delivers hready hroom, fvalGives_iff.2 ?_⟩
    rw [hbuf, hlen]
    exact not_frameValid_frame_append (x := 0xAA#8) (y := 0xBB#8) [0x01#8, 0x03#8, 0x15#8, 0x02#8] (.inl (by decide))

/-- Flipping a bit of a byte changes it. -/
theorem xor_bit_ne (b : Byte) {j : Nat} (hj : j < 8) : b ^^^ (1#8 <<< j) ≠ b := by
  intro h
  have hbit := congrArg (BitVec.getLsbD · j) h
  simp [hj] at hbit

/-- A valid frame with one byte changed is not valid: its checksum as a whole is no longer 0 (41_crc.md R118). -/
theorem frameValid_set {f : List Byte} {k : Nat} {b b' : Byte} (hvalid : frameValid f = true) (hb : f[k]? = some b)
    (hne : b' ≠ b) : frameValid (f.set k b') = false := by
  obtain ⟨-, hzero⟩ := (frameValid_iff f).1 hvalid
  rw [Bool.eq_false_iff, Ne, frameValid_iff]
  rintro ⟨-, hzero'⟩
  exact crc16_set_ne hb hne (hzero'.trans hzero.symm)

/-- Settles O38: a flipped bit is a changed byte, which changes the checksum; the frames of two bodies of one byte
differ, and are both accepted. -/
theorem singleBitErrorsDetected : Obligations.SingleBitErrorsDetected := by
  unfold Obligations.SingleBitErrorsDetected
  refine ⟨fun f k j b hgives hb hj => fvalGives_iff.2 (frameValid_set (fvalGives_iff.1 hgives) hb (xor_bit_ne b hj)),
    fun _ _ _ _ => crc16_set_ne, frame [0x00#8] (crc16 [0x00#8]), frame [0x01#8] (crc16 [0x01#8]), rfl, ?_,
    fvalGives_iff.2 (frameValid_frame (List.cons_ne_nil _ _)),
    fvalGives_iff.2 (frameValid_frame (List.cons_ne_nil _ _))⟩
  simp [frame]

end Sys2Proof.Machine
end

section
/-! Rounding toward zero, and the voltage code by it (00_scope.md R10; 42_frame_encode.md R140). -/

namespace Sys2Proof.Machine

/-- From zero on, rounding toward zero is rounding down (00_scope.md R10). -/
theorem trunc_bounds_of_nonneg {x : Rat} (h : 0 ≤ x) : (trunc x : Rat) ≤ x ∧ x < trunc x + 1 := by
  rw [trunc_of_nonneg h]
  exact ⟨Int.floor_le x, Int.lt_floor_add_one x⟩

/-- Up to zero, rounding toward zero is rounding up (00_scope.md R10). -/
theorem trunc_bounds_of_nonpos {x : Rat} (h : x ≤ 0) : x ≤ trunc x ∧ (trunc x : Rat) - 1 < x := by
  obtain ⟨hle, hlt⟩ := trunc_bounds_of_nonneg (neg_nonneg.2 h)
  rw [trunc_neg, Int.cast_neg] at hle hlt
  constructor <;> linarith

/-- The values that round toward zero to a 16-bit code include those between -1 and 0 (42_frame_encode.md R143). -/
theorem trunc_mem_code {x : Rat} (hlow : -1 < x) (hhigh : x < 65536) : 0 ≤ trunc x ∧ trunc x ≤ 65535 := by
  rw [← Int.lt_add_one_iff (b := 65535), ← Int.sub_one_lt_iff, ← Int.cast_lt (R := Rat), ← Int.cast_lt (R := Rat)]
  push_cast
  obtain hneg | hpos := le_total x 0
  · obtain ⟨hle, hlt⟩ := trunc_bounds_of_nonpos hneg
    constructor <;> linarith
  · obtain ⟨hle, hlt⟩ := trunc_bounds_of_nonneg hpos
    constructor <;> linarith

/-- Settles O40: the two bounds of rounding toward zero, at ten times the voltage. -/
theorem exactVoltageCodeTruncates : Obligations.ExactVoltageCodeTruncates := by
  unfold Obligations.ExactVoltageCodeTruncates
  intro vin
  exact ⟨trunc (10 * vin), rfl, fun hpos => trunc_bounds_of_nonneg (by linarith),
    fun hneg => trunc_bounds_of_nonpos (by linarith)⟩

/-- Under binary64 there is no code where the rounded voltage or the rounded product is infinite, and only there
(42_frame_encode.md R141; log 12). -/
theorem voltageCode_binary64_eq_none_iff {vin : Rat} : voltageCode .binary64 vin = none ↔
    fl64 vin = none ∨ ∃ v, fl64 vin = some v ∧ fl64 (v * 10) = none := by
  cases hv : fl64 vin with
  | none => simp [voltageCode, hv]
  | some v => cases hx : fl64 (v * 10) <;> simp [voltageCode, hv, hx]

/-- Under binary64 the code is the rounded product of the rounded voltage and 10, rounded toward zero
(42_frame_encode.md R140). -/
theorem voltageCode_binary64_of_finite {vin v x : Rat} (hv : fl64 vin = some v) (hx : fl64 (v * 10) = some x) :
    voltageCode .binary64 vin = some (trunc x) := by
  simp [voltageCode, hv, hx]

end Sys2Proof.Machine
end

section
/-! The 16-bit code that BSETV packs (42_frame_encode.md R141). -/

namespace Sys2Proof.Machine

variable {p : Params} {vin : Rat} {q : Int}

/-- A voltage without a code is not encoded, under every policy (42_frame_encode.md R141; log 12). -/
theorem encodedVoltage_of_no_code (h : voltageCode p.voltArith vin = none) : encodedVoltage p vin = none := by
  simp [encodedVoltage, h]

/-- A code in range is packed as itself (42_frame_encode.md R141). -/
theorem encodedVoltage_of_mem (h : voltageCode p.voltArith vin = some q) (hlow : 0 ≤ q) (hhigh : q ≤ 65535) :
    ∃ w : Word, encodedVoltage p vin = some w ∧ (w.toNat : Int) = q := by
  have hin : ¬ (q < 0 ∨ 65535 < q) := by omega
  refine ⟨BitVec.ofNat 16 q.toNat, by simp only [encodedVoltage, h, if_neg hin], ?_⟩
  rw [BitVec.toNat_ofNat]
  omega

/-- What each policy makes of a code out of range (42_frame_encode.md R141). -/
theorem encodedVoltage_of_not_mem (h : voltageCode p.voltArith vin = some q) (hout : q < 0 ∨ 65535 < q) :
    (p.voltOorPolicy = .fault → encodedVoltage p vin = none) ∧
    (p.voltOorPolicy = .clamp → encodedVoltage p vin = some (if q < 0 then 0x0000#16 else 0xFFFF#16)) ∧
    (p.voltOorPolicy = .wrap → encodedVoltage p vin = some (BitVec.ofNat 16 (q % 65536).toNat)) := by
  refine ⟨fun hp => ?_, fun hp => ?_, fun hp => ?_⟩ <;> simp only [encodedVoltage, h, if_pos hout, hp]

/-- Settles O43, by the code packed in range and the three policies out of it. -/
theorem outOfRangeVoltagePolicy : Obligations.OutOfRangeVoltagePolicy := by
  unfold Obligations.OutOfRangeVoltagePolicy
  refine fun p vin => ⟨encodedVoltage_of_no_code, fun q hq => ⟨encodedVoltage_of_mem hq, fun hout =>
    (encodedVoltage_of_not_mem hq hout).1, fun hneg hp => ?_, fun hbig hp => ?_, fun hout hp => ?_⟩⟩
  · obtain ⟨-, hclamp, -⟩ := encodedVoltage_of_not_mem hq (.inl hneg)
    rw [hclamp hp, if_pos hneg]
  · obtain ⟨-, hclamp, -⟩ := encodedVoltage_of_not_mem hq (.inr hbig)
    rw [hclamp hp, if_neg (by omega)]
  · obtain ⟨-, -, hwrap⟩ := encodedVoltage_of_not_mem hq hout
    refine ⟨_, hwrap hp, ?_⟩
    rw [BitVec.toNat_ofNat]
    omega

end Sys2Proof.Machine
end

section
/-! What the encoder answers in a bound block: the frame of its body, or the fault of a voltage without a 16-bit code
(42_frame_encode.md R142, R145, R148). -/

namespace Sys2Proof.Machine

variable {s : State} {r : Request} {rest : List HostMove} {q : Word} {o : List Byte}

theorem bsetv_delivers (h : Ready s r rest) (hb : s.bound = true) (hq : encodedVoltage s.params r.vin = some q) :
    Delivers .bsetv s (okObuf (frame (setVoltageBody s.devAddr q) (crc16 (setVoltageBody s.devAddr q)))) := by
  have hexec := execBsetv_bound h hb
  rw [hq] at hexec
  exact delivers_of_finish hexec

theorem execBsetv_unencodable (h : Ready s r rest) (hb : s.bound = true)
    (hnone : encodedVoltage s.params r.vin = none) : exec .bsetv s = .next (faulted 6#4 r s) := by
  rw [execBsetv_bound h hb, hnone]
  rfl

theorem benout_delivers (e : Bool) (h : Ready s r rest) (hb : s.bound = true) :
    Delivers (.benout e) s (okObuf (frame (enableOutputBody s.devAddr (enableByte s.params e))
      (crc16 (enableOutputBody s.devAddr (enableByte s.params e))))) :=
  delivers_of_finish (execBenout_bound e h hb)

theorem brdv_delivers (h : Ready s r rest) (hb : s.bound = true) :
    Delivers .brdv s (okObuf (frame (readVoltageBody s.devAddr) (crc16 (readVoltageBody s.devAddr)))) :=
  delivers_of_finish (execBrdv_bound h hb)

/-- Settles O42, by BSETV's answer in an unbound block and its two answers in a bound one. -/
theorem bsetvOutcomes : Obligations.BsetvOutcomes := by
  unfold Obligations.BsetvOutcomes
  refine ⟨decode_encode .bsetv, fun s r rest hready => ⟨fun hb => exec_unbound hready hb (.inl rfl),
    execBsetv_unencodable hready, ?_⟩⟩
  rintro q _ hb hq rfl
  exact bsetv_delivers hready hb hq

/-- Settles O57, by the code under binary64, and BSETV's fault where there is none. -/
theorem binary64VoltageCode : Obligations.Binary64VoltageCode := by
  unfold Obligations.Binary64VoltageCode
  refine ⟨fun vin => voltageCode_binary64_eq_none_iff, fun vin v x hv hx =>
    ⟨voltageCode_binary64_of_finite hv hx, trunc_bounds_of_nonneg, trunc_bounds_of_nonpos⟩,
    fun s r rest hready hb harith hinf => ?_⟩
  have hcode : voltageCode s.params.voltArith r.vin = none := harith ▸ voltageCode_binary64_eq_none_iff.2 hinf
  exact execBsetv_unencodable hready hb (encodedVoltage_of_no_code hcode)

/-- Settles O44: ten times such a voltage rounds toward zero into 0..65535, so its code is packed. -/
theorem bsetvHasNoRangeCheck : Obligations.BsetvHasNoRangeCheck := by
  unfold Obligations.BsetvHasNoRangeCheck
  intro s r rest hready hb harith hlow hhigh
  obtain ⟨hcodeLow, hcodeHigh⟩ := trunc_mem_code (x := 10 * r.vin) (by linarith) (by linarith)
  have hcode : voltageCode s.params.voltArith r.vin = some (trunc (10 * r.vin)) := by rw [harith]; rfl
  obtain ⟨w, hw, -⟩ := encodedVoltage_of_mem hcode hcodeLow hcodeHigh
  exact ⟨_, bsetv_delivers hready hb hw, rfl⟩

/-- Settles O45, by BENOUT's answers in an unbound and a bound block, and the two values of the enable byte. -/
theorem benoutOutcomes : Obligations.BenoutOutcomes := by
  unfold Obligations.BenoutOutcomes
  refine ⟨decode_encode (.benout false), decode_encode (.benout true), fun p hp => ⟨rfl, hp.1, rfl⟩,
    fun s r rest e hready => ⟨fun hb => exec_unbound hready hb (.inr (.inl ⟨e, rfl⟩)), ?_⟩⟩
  rintro _ hb rfl
  exact benout_delivers e hready hb

/-- Settles O46, by BRDV's answers in an unbound and a bound block. -/
theorem brdvOutcomes : Obligations.BrdvOutcomes := by
  unfold Obligations.BrdvOutcomes
  refine ⟨decode_encode .brdv, fun s r rest hready => ⟨fun hb => exec_unbound hready hb (by simp), ?_⟩⟩
  rintro _ hb rfl
  exact brdv_delivers hready hb

/-- What an operation is known to deliver is all that it delivers. -/
theorem Delivers.iff_eq {i : Instr} {res : Results} (h : Delivers i s res) (res' : Results) :
    Delivers i s res' ↔ res = res' :=
  ⟨delivers_unique h, fun heq => heq ▸ h⟩

/-- Settles O47: CRCAPP on the padded shape delivers the frame of its first 4 bytes, which is BRDV's. -/
theorem readFrameEqualsAppendedShape : Obligations.ReadFrameEqualsAppendedShape := by
  unfold Obligations.ReadFrameEqualsAppendedShape
  intro s r rest t u v rest' hready hb hready' hbuf hlen
  have hexact : u.buffer.length = u.len + 2 := by rw [hbuf, hlen]; rfl
  have hcrcapp := crcapp_delivers hready' (by rw [← hexact, u.buffer_length])
  rw [withChecksum_exact _ hexact, hbuf, hlen] at hcrcapp
  exact ((brdv_delivers hready hb).iff_eq _).trans (hcrcapp.iff_eq _).symm

/-- An encoder that delivers is bound, and what it delivers is the frame of a body that starts with its address
(30_encoding.md R69, R70, R71). -/
theorem encoder_delivers_frame {i : Instr} (h : Ready s r rest) (hi : i = .bsetv ∨ (∃ e, i = .benout e) ∨ i = .brdv)
    (hdelivers : Delivers i s (okObuf o)) :
    s.bound = true ∧ ∃ tail, o = frame (s.devAddr :: tail) (crc16 (s.devAddr :: tail)) := by
  have ⟨t, hexec, hres, _⟩ := hdelivers
  have hobuf : readObuf t = .ok o := by simp [readObuf, hres, okObuf]
  obtain ⟨hb, -⟩ := encoder_obuf_head h hexec hobuf hi
  have frame_of {body : List Byte} (hframe : Delivers i s (okObuf (frame body (crc16 body)))) :
      o = frame body (crc16 body) := by
    simpa [okObuf] using delivers_unique hdelivers hframe
  refine ⟨hb, ?_⟩
  obtain rfl | ⟨e, rfl⟩ | rfl := hi
  · cases hq : encodedVoltage s.params r.vin with
    | none => exact absurd hobuf (readObuf_ne_ok_of_fault (by rw [execBsetv_bound h hb, hq]) hexec)
    | some q => exact ⟨_, frame_of (bsetv_delivers h hb hq)⟩
  · exact ⟨_, frame_of (benout_delivers e h hb)⟩
  · exact ⟨_, frame_of (brdv_delivers h hb)⟩

/-- RVAL accepts a valid frame that starts with the bound address (43_frame_decode.md R170). -/
theorem rval_accepts (h : Ready s r rest) (hb : s.bound = true) (hhead : r.buffer.head? = some s.devAddr)
    (hvalid : frameValid r.buffer = true) : Delivers .rval s (okRbit true) := by
  have hexec := execRval_bound h hb
  rw [hhead, hvalid, decide_eq_true rfl, Bool.and_self] at hexec
  exact delivers_of_finish hexec

/-- Settles O48: what an encoder delivers is a body and its checksum, so it is valid, and it starts with the address,
which the invariant puts in 1..6. -/
theorem builtFramesValidate : Obligations.BuiltFramesValidate := by
  unfold Obligations.BuiltFramesValidate
  intro s r rest e o hinv hready hencoder
  have hframe : s.bound = true ∧ ∃ tail, o = frame (s.devAddr :: tail) (crc16 (s.devAddr :: tail)) := by
    obtain hdelivers | hdelivers | hdelivers := hencoder
    · exact encoder_delivers_frame hready (.inl rfl) hdelivers
    · exact encoder_delivers_frame hready (.inr (.inl ⟨e, rfl⟩)) hdelivers
    · exact encoder_delivers_frame hready (.inr (.inr rfl)) hdelivers
  obtain ⟨hb, tail, rfl⟩ := hframe
  have hvalid := frameValid_frame (List.cons_ne_nil s.devAddr tail)
  refine ⟨fvalGives_iff.2 hvalid, fun t u rest' hready' hb' haddr hbuf => ?_,
    s.devAddr, rfl, rfl, hinv.bound_addr hb⟩
  exact rval_accepts hready' hb' (by rw [hbuf, haddr]; rfl) (hbuf ▸ hvalid)

/-- The two bytes of a word, put together again (00_scope.md R8, R9). -/
theorem word16_lo8_hi8 (w : Word) : word16 (lo8 w) (hi8 w) = w := by
  ext k hk
  by_cases hlow : k < 8
  · simp [word16, lo8, hi8, hlow, BitVec.getLsbD_eq_getElem hk]
  · have hbyte : k - 8 < 8 := by omega
    have hback : 8 + (k - 8) = k := by omega
    simp [word16, lo8, hi8, hlow, hbyte, hback, BitVec.getLsbD_eq_getElem hk]

/-- From 8 bytes on, the reading is that of bytes 4 and 5, little-endian (43_frame_decode.md R173). -/
theorem voltageReading_of_bytes {sentinel : Rat} {f : List Byte} {lo hi : Byte} (hlong : 8 ≤ f.length)
    (hlo : f[4]? = some lo) (hhi : f[5]? = some hi) : voltageReading sentinel f = readingValue (word16 lo hi) := by
  obtain ⟨_, rfl⟩ := List.getElem?_eq_some_iff.1 hlo
  obtain ⟨_, rfl⟩ := List.getElem?_eq_some_iff.1 hhi
  rw [voltageReading, dif_neg (by omega)]

/-- RPARSEV delivers the reading of bytes 4 and 5 of a long enough response (43_frame_decode.md R173). -/
theorem rparsev_delivers {lo hi : Byte} (h : Ready s r rest) (hb : s.bound = true) (hlong : 8 ≤ r.effLen)
    (hlo : r.buffer[4]? = some lo) (hhi : r.buffer[5]? = some hi) :
    Delivers .rparsev s (okRvolt (readingValue (word16 lo hi))) := by
  have hexec := execRparsev_bound h hb
  rw [voltageReading_of_bytes (by simpa using hlong) hlo hhi] at hexec
  exact delivers_of_finish hexec

/-- Settles O49: bytes 4 and 5 of BSETV's frame are its code, low byte first, and RPARSEV puts them together again;
under exact arithmetic the code is ten times the voltage rounded down. -/
theorem voltageRoundTrip : Obligations.VoltageRoundTrip := by
  unfold Obligations.VoltageRoundTrip
  intro s r rest q o hready hb hcode hlow hhigh hdelivers
  obtain ⟨w, hw, rfl⟩ := encodedVoltage_of_mem hcode hlow hhigh
  obtain rfl : o = _ := by simpa [okObuf] using delivers_unique hdelivers (bsetv_delivers hready hb hw)
  refine ⟨fun t u rest' hready' hb' hlong hlo hhi => ?_, fun harith hpos => ?_⟩
  · have hreading : readingValue (word16 (lo8 w) (hi8 w)) = ((w.toNat : Int) : Rat) / 10 := by
      rw [word16_lo8_hi8, readingValue, Rat.mkRat_eq_div]
      norm_num
    exact hreading ▸ rparsev_delivers hready' hb' hlong hlo hhi
  · rw [harith] at hcode
    have hq : trunc (10 * r.vin) = (w.toNat : Int) := Option.some.inj hcode
    obtain ⟨hle, hlt⟩ := trunc_bounds_of_nonneg (x := 10 * r.vin) (by linarith)
    rw [hq] at hle hlt
    constructor <;> linarith

end Sys2Proof.Machine
end

section
/-! Rounding to the nearest integer, ties to even (42_frame_encode.md R140). -/

namespace Sys2Proof.Machine

/-- `m` is an integer nearest to `t`, and the even one where two integers are as near. -/
structure NearestEven (m : Int) (t : Rat) : Prop where
  near : |m - t| ≤ 1 / 2
  tie : |m - t| = 1 / 2 → 2 ∣ m

variable {m n : Int} {t w : Rat}

theorem NearestEven.neg (h : NearestEven m t) : NearestEven (-m) (-t) := by
  have habs : |((-m : Int) : Rat) - -t| = |m - t| := by
    rw [Int.cast_neg, ← neg_sub', abs_neg]
  exact ⟨habs ▸ h.near, fun htie => (h.tie (habs ▸ htie)).neg_right⟩

/-- Two integers are at least 1 apart, so no value is within less than a half of both. -/
theorem one_le_abs_sub_add (hne : n ≠ m) (t : Rat) : 1 ≤ |n - t| + |m - t| := by
  have hapart : 1 ≤ |n - m| := Int.one_le_abs (sub_ne_zero.2 hne)
  calc (1 : Rat) ≤ |(n : Rat) - m| := by exact_mod_cast hapart
    _ ≤ |n - t| + |m - t| := abs_sub_comm (m : Rat) t ▸ abs_sub_le (n : Rat) t m

/-- No integer is nearer, and where another one is as near the answer is even. -/
theorem NearestEven.abs_sub_le (h : NearestEven m t) (n : Int) :
    |m - t| ≤ |n - t| ∧ (n ≠ m → |n - t| = |m - t| → 2 ∣ m) := by
  have hnear := h.near
  by_cases hne : n = m
  · exact ⟨by rw [hne], fun hne' => absurd hne hne'⟩
  · have hapart := one_le_abs_sub_add hne t
    exact ⟨by linarith, fun _ htie => h.tie (by linarith)⟩

/-- A value on the near side of an integer `n` that `t` reaches in size is farther from `t` than the answer is. -/
theorem NearestEven.abs_sub_lt (h : NearestEven m t) (hw : |w| < n) (ht : n ≤ |t|) : |m - t| < |w - t| := by
  have hbetween : ∃ k : Int, |k - t| = |t| - n := by
    obtain hneg | hpos := le_total t 0
    · rw [abs_of_nonpos hneg] at ht ⊢
      exact ⟨-n, by push_cast; rw [abs_of_nonneg] <;> linarith⟩
    · rw [abs_of_nonneg hpos] at ht ⊢
      exact ⟨n, by rw [abs_of_nonpos] <;> linarith⟩
  obtain ⟨k, hk⟩ := hbetween
  calc |m - t| ≤ |k - t| := (h.abs_sub_le k).1
    _ = |t| - n := hk
    _ < |t| - |w| := by linarith
    _ ≤ |w - t| := abs_sub_comm w t ▸ abs_sub_abs_le_abs_sub t w

/-- Rounding changes the size of a value by a half at most. -/
theorem NearestEven.abs_bounds (h : NearestEven m t) : |(m : Rat)| ≤ |t| + 1 / 2 ∧ |t| ≤ |(m : Rat)| + 1 / 2 := by
  obtain ⟨hup, hdown⟩ := abs_sub_le_iff.1 ((abs_abs_sub_abs_le _ _).trans h.near)
  constructor <;> linarith

/-- Rounding does not leave a range of integers. -/
theorem NearestEven.abs_le (h : NearestEven m t) (ht : |t| ≤ n) : |m| ≤ n := by
  have hlt : |(m : Rat)| < n + 1 := by linarith [h.abs_bounds.1]
  exact Int.lt_add_one_iff.1 (by exact_mod_cast hlt)

/-- An even integer is reached in size from a half below it on: on the tie the even neighbour is chosen. -/
theorem NearestEven.le_abs_iff (h : NearestEven m t) (hn : 2 ∣ n) : n ≤ |m| ↔ n - 1 / 2 ≤ |t| := by
  obtain ⟨hup, hdown⟩ := h.abs_bounds
  constructor
  · intro hle
    have hle : (n : Rat) ≤ |(m : Rat)| := by exact_mod_cast hle
    linarith
  · intro hle
    by_contra hlt
    have hlt : |m| + 1 ≤ n := Int.add_one_le_iff.2 (not_le.1 hlt)
    have hltRat : |(m : Rat)| + 1 ≤ n := by exact_mod_cast hlt
    have htie : |m - t| = 1 / 2 :=
      le_antisymm h.near (by linarith [abs_sub_comm (m : Rat) t ▸ abs_sub_abs_le_abs_sub t (m : Rat)])
    have hbelow : |m| + 1 = n := by
      have : (n : Rat) ≤ |(m : Rat)| + 1 := by linarith
      exact le_antisymm hlt (by exact_mod_cast this)
    have heven : 2 ∣ |m| := (dvd_abs 2 m).2 (h.tie htie)
    omega

/-- A quotient of naturals is its integer quotient and a fraction. -/
theorem div_eq_quotient_add_fraction (num : Nat) {den : Nat} (hden : 0 < den) :
    (num : Rat) / den = (num / den : Nat) + ((num % den : Nat) : Rat) / den := by
  have hpos : (0 : Rat) < den := by exact_mod_cast hden
  rw [div_eq_iff hpos.ne', add_mul, div_mul_cancel₀ _ hpos.ne']
  exact_mod_cast (Nat.div_add_mod' num den).symm

/-- The fraction compared with a half, as the model does it on naturals. -/
theorem fraction_half_iff (k : Nat) {den : Nat} (hden : 0 < den) :
    ((k : Rat) / den ≤ 1 / 2 ↔ 2 * k ≤ den) ∧ (1 / 2 ≤ (k : Rat) / den ↔ den ≤ 2 * k) := by
  have hpos : (0 : Rat) < den := by exact_mod_cast hden
  rw [div_le_div_iff₀ hpos two_pos, div_le_div_iff₀ two_pos hpos, mul_comm (k : Rat), one_mul]
  exact ⟨by exact_mod_cast Iff.rfl, by exact_mod_cast Iff.rfl⟩

/-- The model's rounded quotient of naturals is the nearest integer, ties to even: it goes up where the fraction is more
than a half, and on a half where the integer quotient is odd. -/
theorem divNearestEven_nearestEven (num : Nat) {den : Nat} (hden : 0 < den) :
    NearestEven (divNearestEven num den) (num / den) := by
  obtain ⟨hle_half, hge_half⟩ := fraction_half_iff (num % den) hden
  have hfrac : 0 ≤ ((num % den : Nat) : Rat) / den := by positivity
  have hone : ((num % den : Nat) : Rat) / den < 1 :=
    (div_lt_one (by exact_mod_cast hden)).2 (by exact_mod_cast Nat.mod_lt num hden)
  rw [div_eq_quotient_add_fraction num hden]
  generalize ((num % den : Nat) : Rat) / den = f at hfrac hle_half hge_half hone
  unfold divNearestEven
  dsimp only
  split
  · next hup =>
    simp only [Bool.or_eq_true, Bool.and_eq_true, decide_eq_true_eq] at hup
    have hdist : |(((num / den + 1 : Nat) : Int) : Rat) - ((num / den : Nat) + f)| = 1 - f := by
      rw [Int.cast_natCast, Nat.cast_succ, add_sub_add_left_eq_sub, abs_of_pos (by linarith)]
    have hge := hge_half.2 (by omega)
    refine ⟨by rw [hdist]; linarith, fun htie => ?_⟩
    have hle := hle_half.1 (by linarith)
    omega
  · next hdown =>
    simp only [Bool.or_eq_true, Bool.and_eq_true, decide_eq_true_eq, not_or, not_and] at hdown
    have hdist : |(((num / den : Nat) : Int) : Rat) - ((num / den : Nat) + f)| = f := by
      rw [Int.cast_natCast, sub_add_cancel_left, abs_neg, abs_of_nonneg hfrac]
    refine ⟨by rw [hdist]; exact hle_half.2 (by omega), fun htie => ?_⟩
    have hge := hge_half.1 (by linarith)
    omega

end Sys2Proof.Machine
end

section
/-! The binade and the last place of a value, and `fl64` as one equation (42_frame_encode.md R140). -/

namespace Sys2Proof.Machine

/-- A power of two with an exponent of either sign, as the model scales by it: a factor on one side. -/
theorem two_pow_toNat (e : Int) : (2 : Rat) ^ e.toNat = 2 ^ e * 2 ^ (-e).toNat := by
  rw [← zpow_natCast, ← zpow_natCast, ← zpow_add₀ two_ne_zero]
  congr 1
  omega

/-- A comparison with a value in place `e`, as the model does it on naturals. -/
theorem scaled_lt_iff (a b : Nat) (e : Int) :
    a * 2 ^ e.toNat < b * 2 ^ (-e).toNat ↔ (a : Rat) * 2 ^ e < b := by
  rw [← Nat.cast_lt (α := Rat)]
  push_cast
  rw [two_pow_toNat, ← mul_assoc, mul_lt_mul_iff_left₀ (by positivity)]

/-- A quotient counted in units of `2 ^ e`, as the model scales it on naturals. -/
theorem scaled_div (a b : Nat) (e : Int) :
    ((a * 2 ^ (-e).toNat : Nat) : Rat) / (b * 2 ^ e.toNat : Nat) = (a : Rat) / b / 2 ^ e := by
  push_cast
  rw [two_pow_toNat e, ← mul_assoc, mul_div_mul_right _ _ (by positivity), div_div]

/-- `binaryExponent` is the exponent of the binade that the quotient lies in. -/
theorem binaryExponent_bounds {num den : Nat} (hnum : num ≠ 0) (hden : den ≠ 0) :
    (2 : Rat) ^ binaryExponent num den ≤ num / den ∧ (num : Rat) / den < 2 ^ (binaryExponent num den + 1) := by
  have hpos : (0 : Rat) < den := by positivity
  have hnumLow : (2 : Rat) ^ (num.log2 : Int) ≤ num := by exact_mod_cast Nat.log2_self_le hnum
  have hnumHigh : (num : Rat) < 2 ^ (num.log2 + 1 : Int) := by exact_mod_cast Nat.lt_log2_self
  have hdenLow : (2 : Rat) ^ (den.log2 : Int) ≤ den := by exact_mod_cast Nat.log2_self_le hden
  have hdenHigh : (den : Rat) < 2 ^ (den.log2 + 1 : Int) := by exact_mod_cast Nat.lt_log2_self
  unfold binaryExponent
  extract_lets e
  have htest : num * 2 ^ (-e).toNat < den * 2 ^ e.toNat ↔ (num : Rat) / den < 2 ^ e := by
    have hscaled := scaled_lt_iff num den (-e)
    rw [neg_neg] at hscaled
    rw [hscaled, zpow_neg, ← div_eq_mul_inv, div_lt_iff₀ (by positivity), div_lt_iff₀ hpos, mul_comm]
  have hlow : (2 : Rat) ^ (e - 1) ≤ num / den := by
    rw [le_div_iff₀ hpos]
    calc (2 : Rat) ^ (e - 1) * den ≤ 2 ^ (e - 1) * 2 ^ (den.log2 + 1 : Int) := by gcongr
      _ = 2 ^ (num.log2 : Int) := by rw [← zpow_add₀ two_ne_zero]; congr 1; omega
      _ ≤ num := hnumLow
  have hhigh : (num : Rat) / den < 2 ^ (e + 1) := by
    rw [div_lt_iff₀ hpos]
    calc (num : Rat) < 2 ^ (num.log2 + 1 : Int) := hnumHigh
      _ = 2 ^ (e + 1) * 2 ^ (den.log2 : Int) := by rw [← zpow_add₀ two_ne_zero]; congr 1; omega
      _ ≤ 2 ^ (e + 1) * den := by gcongr
  split
  · next hsmall => exact ⟨hlow, by rw [sub_add_cancel]; exact htest.1 hsmall⟩
  · next hlarge => exact ⟨not_lt.1 (mt htest.2 hlarge), hhigh⟩

/-- `x` rounded in its binary64 last place: `t` is `x` counted in units of `2 ^ p`, below 53 bits, and with all 53 unless
`2 ^ p` is the subnormal step; `m` is the integer nearest to `t`, ties to even. -/
structure RoundedAt (x : Rat) (p : Int) (t : Rat) (m : Int) : Prop where
  value : x = t * 2 ^ p
  place_ge : -1074 ≤ p
  units_lt : |t| < 2 ^ 53
  units_ge : 2 ^ 52 ≤ |t| ∨ p = -1074
  nearest : NearestEven m t

theorem RoundedAt.neg {x t : Rat} {p m : Int} (h : RoundedAt x p t m) : RoundedAt (-x) p (-t) (-m) where
  value := by rw [h.value, neg_mul]
  place_ge := h.place_ge
  units_lt := (abs_neg t).symm ▸ h.units_lt
  units_ge := (abs_neg t).symm ▸ h.units_ge
  nearest := h.nearest.neg

/-- The model's last place and rounded quotient are the rounding of a positive quotient. -/
theorem roundedAt_lastPlace {num den : Nat} (hnum : num ≠ 0) (hden : den ≠ 0) :
    RoundedAt (num / den) (lastPlace num den) (num / den / 2 ^ lastPlace num den)
      (divNearestEven (num * 2 ^ (-lastPlace num den).toNat) (den * 2 ^ (lastPlace num den).toNat)) := by
  obtain ⟨hlow, hhigh⟩ := binaryExponent_bounds hnum hden
  have hplace : lastPlace num den = max (binaryExponent num den - 52) (-1074) := rfl
  generalize lastPlace num den = p at hplace
  have hpow : (0 : Rat) < 2 ^ p := by positivity
  have habs : |(num : Rat) / den / 2 ^ p| = num / den / 2 ^ p := abs_of_nonneg (by positivity)
  refine ⟨(div_mul_cancel₀ _ hpow.ne').symm, hplace ▸ le_max_right _ _, ?_, ?_, ?_⟩
  · rw [habs, div_lt_iff₀ hpow]
    calc (num : Rat) / den < 2 ^ (binaryExponent num den + 1) := hhigh
      _ ≤ 2 ^ ((53 : Nat) + p : Int) := zpow_le_zpow_right₀ one_le_two (by omega)
      _ = 2 ^ 53 * 2 ^ p := by rw [zpow_add₀ two_ne_zero, zpow_natCast]
  · obtain hsub | hnormal : p = -1074 ∨ p = binaryExponent num den - 52 := by omega
    · exact .inr hsub
    · left
      rw [habs, le_div_iff₀ hpow]
      calc (2 : Rat) ^ 52 * 2 ^ p = 2 ^ ((52 : Nat) + p : Int) := by rw [zpow_add₀ two_ne_zero, zpow_natCast]
        _ = 2 ^ binaryExponent num den := by congr 1; omega
        _ ≤ num / den := hlow
  · have hrounded := divNearestEven_nearestEven (num * 2 ^ (-p).toNat) (den := den * 2 ^ p.toNat) (by positivity)
    rwa [scaled_div] at hrounded

/-- `fl64` on a value that is not zero: the size is rounded, then the sign is put back. -/
theorem fl64_of_ne_zero {x : Rat} {p : Int} {m : Nat} (hx : x ≠ 0) (hp : p = lastPlace x.num.natAbs x.den)
    (hm : m = divNearestEven (x.num.natAbs * 2 ^ (-p).toNat) (x.den * 2 ^ p.toNat)) :
    fl64 x = if (m : Rat) * 2 ^ p < 2 ^ 1024 then some ((x.num.sign * m : Rat) * 2 ^ p) else none := by
  have htest := scaled_lt_iff m (2 ^ 1024) p
  have hvalue : mkRat (x.num.sign * (m * 2 ^ p.toNat : Nat)) (2 ^ (-p).toNat) = x.num.sign * m * 2 ^ p := by
    rw [Rat.mkRat_eq_div]
    push_cast
    rw [two_pow_toNat, ← mul_assoc, ← mul_assoc, mul_div_cancel_right₀ _ (by positivity)]
  simp only [fl64, if_neg (mt Rat.zero_of_num_zero hx), ← hp, ← hm, htest, hvalue, Nat.cast_pow, Nat.cast_ofNat]

/-- Everything `fl64` can do (42_frame_encode.md R140): the rounding of the value in its last place, or nothing where it
reaches `2 ^ 1024`. -/
theorem fl64_eq (x : Rat) : ∃ p t m, RoundedAt x p t m ∧
    fl64 x = if |(m : Rat)| * 2 ^ p < 2 ^ 1024 then some ((m : Rat) * 2 ^ p) else none := by
  by_cases hx : x = 0
  · subst hx
    refine ⟨-1074, 0, 0, ⟨by simp, le_rfl, by simp, .inr rfl, by simp, by simp⟩, ?_⟩
    rw [Int.cast_zero, abs_zero, zero_mul, if_pos (by positivity)]
    rfl
  · have hrounded := roundedAt_lastPlace (Int.natAbs_ne_zero.2 (Rat.num_ne_zero.2 hx)) x.den_ne_zero
    have hfl := fl64_of_ne_zero hx rfl rfl
    generalize lastPlace x.num.natAbs x.den = p at hrounded hfl
    generalize divNearestEven _ _ = m at hrounded hfl
    have hvalue : (x.num.sign : Rat) * (x.num.natAbs / x.den) = x := by
      have hnum : (x.num.sign : Rat) * x.num.natAbs = x.num := by
        rw [← Int.cast_natCast, ← Int.cast_mul, Int.sign_mul_natAbs]
      rw [← mul_div_assoc, hnum, Rat.num_div_den]
    obtain hneg | hpos := (Rat.num_ne_zero.2 hx).lt_or_gt
    · rw [Int.sign_eq_neg_one_of_neg hneg] at hvalue hfl
      have hrounded := hrounded.neg
      rw [← neg_one_mul, ← Int.cast_one, ← Int.cast_neg, hvalue] at hrounded
      exact ⟨p, _, _, hrounded, by simpa using hfl⟩
    · rw [Int.sign_eq_one_of_pos hpos] at hvalue hfl
      rw [← one_mul (_ / _ : Rat), ← Int.cast_one, hvalue] at hrounded
      exact ⟨p, _, _, hrounded, by simpa using hfl⟩

end Sys2Proof.Machine
end

section
/-! `fl64` rounds to the nearest binary64 value, ties to even (42_frame_encode.md R140; 93_implementation_defined.md
G8). -/

namespace Sys2Proof.Machine

variable {x z t : Rat} {p m : Int}

/-- A power of two split into a significand's size and a place. -/
theorem two_pow_eq_mul_zpow {a b : Nat} {e : Int} (h : (a : Int) + e = b) : (2 : Rat) ^ b = 2 ^ a * 2 ^ e := by
  rw [← zpow_natCast, ← zpow_natCast, ← zpow_add₀ two_ne_zero, h]

/-- A higher place is at least twice as large. -/
theorem two_zpow_mul_two_le {a b : Int} (h : a < b) : (2 : Rat) ^ a * 2 ≤ 2 ^ b := by
  rw [← zpow_add_one₀ two_ne_zero]
  exact zpow_le_zpow_right₀ one_le_two h

/-- The largest finite place is `2 ^ 971`: there the limit `2 ^ 1024` is 53 bits away. -/
theorem limit_eq : (2 : Rat) ^ 1024 = 2 ^ 53 * 2 ^ (971 : Int) := two_pow_eq_mul_zpow (by norm_num)

/-- The overflow threshold is half a last place below the limit (93_implementation_defined.md G8). -/
theorem threshold_eq : (2 : Rat) ^ 1024 - 2 ^ 970 = (2 ^ 53 - 1 / 2) * 2 ^ (971 : Int) := by
  have hhalf : (2 : Rat) ^ 970 = 1 / 2 * 2 ^ (971 : Int) := by
    rw [← zpow_natCast, show ((970 : Nat) : Int) = 971 - 1 from rfl, zpow_sub_one₀ two_ne_zero, mul_comm, one_div]
  rw [limit_eq, hhalf, sub_mul]

theorem RoundedAt.abs_value (h : RoundedAt x p t m) : |x| = |t| * 2 ^ p := by
  rw [h.value, abs_mul, abs_of_pos (by positivity : (0 : Rat) < 2 ^ p)]

/-- The rounded significand has 53 bits, or is `2 ^ 53`. -/
theorem RoundedAt.abs_le (h : RoundedAt x p t m) : |m| ≤ 2 ^ 53 :=
  h.nearest.abs_le (by exact_mod_cast h.units_lt.le)

/-- The rounded significand has all 53 bits, unless the last place is the subnormal step. -/
theorem RoundedAt.le_abs (h : RoundedAt x p t m) : 2 ^ 52 ≤ |m| ∨ p = -1074 := by
  refine h.units_ge.imp_left fun hunits => (h.nearest.le_abs_iff (by decide)).2 ?_
  push_cast
  linarith

/-- A value is rounded to `2 ^ 1024` or more from half a last place below it on. -/
theorem RoundedAt.overflow_iff (h : RoundedAt x p t m) :
    (2 : Rat) ^ 1024 ≤ |(m : Rat)| * 2 ^ p ↔ (2 : Rat) ^ 1024 - 2 ^ 970 ≤ |x| := by
  have hpow : (0 : Rat) < 2 ^ p := by positivity
  have hmax : |(m : Rat)| ≤ 2 ^ 53 := by exact_mod_cast h.abs_le
  rw [threshold_eq, limit_eq, h.abs_value]
  obtain hlow | rfl | hhigh := lt_trichotomy p 971
  · have hstep : (2 : Rat) ^ p * 2 ≤ 2 ^ (971 : Int) := two_zpow_mul_two_le hlow
    generalize (2 : Rat) ^ (971 : Int) = unit at hstep ⊢
    have hm : |(m : Rat)| * 2 ^ p ≤ 2 ^ 53 * 2 ^ p := by gcongr
    have ht : |t| * 2 ^ p ≤ 2 ^ 53 * 2 ^ p := by gcongr; exact h.units_lt.le
    exact iff_of_false (by linarith) (by linarith)
  · have hnearest := h.nearest.le_abs_iff (n := 2 ^ 53) (by decide)
    rw [mul_le_mul_iff_left₀ hpow, mul_le_mul_iff_left₀ hpow]
    exact_mod_cast hnearest
  · have hstep : (2 : Rat) ^ (971 : Int) * 2 ≤ 2 ^ p := two_zpow_mul_two_le hhigh
    generalize (2 : Rat) ^ (971 : Int) = unit at hstep ⊢
    have hnormal : p ≠ -1074 := by omega
    have hm : (2 : Rat) ^ 52 ≤ |(m : Rat)| := by exact_mod_cast h.le_abs.resolve_right hnormal
    have ht : (2 : Rat) ^ 52 ≤ |t| := h.units_ge.resolve_right hnormal
    have hm' : (2 : Rat) ^ 52 * 2 ^ p ≤ |(m : Rat)| * 2 ^ p := by gcongr
    have ht' : (2 : Rat) ^ 52 * 2 ^ p ≤ |t| * 2 ^ p := by gcongr
    exact iff_of_true (by linarith) (by linarith)

/-- `fl64` overflows from the threshold `2 ^ 1024 - 2 ^ 970` on, and only there. -/
theorem fl64_eq_none_iff : fl64 x = none ↔ (2 : Rat) ^ 1024 - 2 ^ 970 ≤ |x| := by
  obtain ⟨p, t, m, hrounded, hfl⟩ := fl64_eq x
  rw [← hrounded.overflow_iff, ← not_lt, hfl]
  simp only [ite_eq_right_iff, reduceCtorEq, imp_false]

/-- What `fl64` answers is the rounding of the value in its last place, below the limit. -/
theorem exists_roundedAt_of_fl64 {y : Rat} (h : fl64 x = some y) :
    ∃ p t m, RoundedAt x p t m ∧ |(m : Rat)| * 2 ^ p < 2 ^ 1024 ∧ y = m * 2 ^ p := by
  obtain ⟨p, t, m, hrounded, hfl⟩ := fl64_eq x
  rw [h] at hfl
  split at hfl
  · next hlt => exact ⟨p, t, m, hrounded, hlt, Option.some.inj hfl⟩
  · cases hfl

/-- Below the limit, the more bits the significand has the lower its place is. -/
theorem place_lt_of_lt_limit {k : Nat} (hbits : 2 ^ k ≤ |m|) (hlt : |(m : Rat)| * 2 ^ p < 2 ^ 1024) :
    (k : Int) + p < 1024 := by
  have hbits : (2 : Rat) ^ k ≤ |(m : Rat)| := by exact_mod_cast hbits
  rw [← zpow_lt_zpow_iff_right₀ (one_lt_two (α := Rat))]
  calc (2 : Rat) ^ ((k : Int) + p) = 2 ^ k * 2 ^ p := by rw [zpow_add₀ two_ne_zero, zpow_natCast]
    _ ≤ |(m : Rat)| * 2 ^ p := by gcongr
    _ < 2 ^ (1024 : Int) := by rw [← zpow_natCast] at hlt; exact hlt

/-- The rounding below the limit is a binary64 value, in the form that shows its own significand; a significand that
rounds up to `2 ^ 53` moves up by one binade. -/
theorem RoundedAt.exists_significand (h : RoundedAt x p t m) (hlt : |(m : Rat)| * 2 ^ p < 2 ^ 1024) :
    ∃ n e : Int, |n| < 2 ^ 53 ∧ -1074 ≤ e ∧ e ≤ 971 ∧ (2 ^ 52 ≤ |n| ∨ e = -1074) ∧ (2 ∣ m → 2 ∣ n) ∧
      (m : Rat) * 2 ^ p = n * 2 ^ e := by
  have hplace := h.place_ge
  obtain hfull | hcarry := h.abs_le.lt_or_eq
  · refine ⟨m, p, hfull, hplace, ?_, h.le_abs, id, rfl⟩
    obtain hbits | hsub := h.le_abs
    · have := place_lt_of_lt_limit hbits hlt
      omega
    · omega
  · have hp := place_lt_of_lt_limit hcarry.ge hlt
    obtain ⟨n, rfl⟩ : 2 ∣ m := (dvd_abs 2 m).1 (hcarry ▸ by decide)
    have hn : |n| = 2 ^ 52 := by
      rw [abs_mul, abs_two] at hcarry
      omega
    refine ⟨n, p + 1, hn ▸ by decide, by omega, by omega, .inl hn.ge,
      fun _ => (dvd_abs 2 n).1 (hn ▸ by decide), ?_⟩
    rw [zpow_add_one₀ two_ne_zero]
    push_cast
    ring

/-- A binary64 value, counted in units of a place, is an integer, or is below the 53-bit values of a normal place. -/
theorem IsBinary64.exists_units (hz : IsBinary64 z) (p : Int) :
    ∃ w, z = w * 2 ^ p ∧ ((∃ n : Int, w = n) ∨ (-1074 < p ∧ |w| < 2 ^ 52)) := by
  obtain ⟨n, e, hn, hmin, -, rfl⟩ := hz
  refine ⟨n * 2 ^ (e - p), by rw [mul_assoc, ← zpow_add₀ two_ne_zero, sub_add_cancel], ?_⟩
  obtain hint | hfine := le_or_gt p e
  · obtain ⟨k, hk⟩ := Int.eq_ofNat_of_zero_le (sub_nonneg.2 hint)
    exact .inl ⟨n * 2 ^ k, by rw [hk, zpow_natCast]; push_cast; rfl⟩
  · refine .inr ⟨by omega, ?_⟩
    have hn : |(n : Rat)| < 2 ^ 53 := by exact_mod_cast hn
    have hstep : (2 : Rat) ^ (e - p) * 2 ≤ 2 ^ (0 : Int) := two_zpow_mul_two_le (sub_neg.2 hfine)
    rw [zpow_zero, ← le_div_iff₀ two_pos] at hstep
    rw [abs_mul, abs_of_pos (by positivity : (0 : Rat) < 2 ^ (e - p))]
    calc |(n : Rat)| * 2 ^ (e - p) ≤ |(n : Rat)| * (1 / 2) := by gcongr
      _ < 2 ^ 52 := by linarith

/-- No binary64 value is nearer to a value than its rounding, and where another is as near the significand is even. -/
theorem RoundedAt.nearest_binary64 (h : RoundedAt x p t m) (hz : IsBinary64 z) :
    |(m : Rat) * 2 ^ p - x| ≤ |z - x| ∧ (z ≠ m * 2 ^ p → |z - x| = |(m : Rat) * 2 ^ p - x| → 2 ∣ m) := by
  have hpow : (0 : Rat) < 2 ^ p := by positivity
  have hdist (v : Rat) : |v * 2 ^ p - x| = |v - t| * 2 ^ p := by
    rw [h.value, ← sub_mul, abs_mul, abs_of_pos hpow]
  obtain ⟨w, rfl, ⟨n, rfl⟩ | ⟨hnormal, hsmall⟩⟩ := hz.exists_units p
  · obtain ⟨hle, heven⟩ := h.nearest.abs_sub_le n
    rw [hdist, hdist, mul_le_mul_iff_left₀ hpow, mul_left_inj' hpow.ne', Ne, mul_left_inj' hpow.ne', Int.cast_inj]
    exact ⟨hle, heven⟩
  · have hunits : (2 : Rat) ^ 52 ≤ |t| := h.units_ge.resolve_right (by omega)
    have hlt := h.nearest.abs_sub_lt (n := 2 ^ 52) (by exact_mod_cast hsmall) (by exact_mod_cast hunits)
    rw [hdist, hdist, mul_le_mul_iff_left₀ hpow, mul_left_inj' hpow.ne']
    exact ⟨hlt.le, fun _ htie => absurd htie hlt.ne'⟩

/-- Binary64 values are below the overflow threshold. -/
theorem IsBinary64.abs_lt (hz : IsBinary64 z) : |z| < (2 : Rat) ^ 1024 - 2 ^ 970 := by
  obtain ⟨n, e, hn, -, hmax, rfl⟩ := hz
  have hn : |(n : Rat)| ≤ 2 ^ 53 - 1 := by exact_mod_cast Int.le_sub_one_iff.2 hn
  have hpow : (0 : Rat) < 2 ^ e := by positivity
  rw [threshold_eq, abs_mul, abs_of_pos hpow]
  calc |(n : Rat)| * 2 ^ e ≤ (2 ^ 53 - 1) * 2 ^ e := by gcongr
    _ < (2 ^ 53 - 1 / 2) * 2 ^ e := by gcongr; norm_num
    _ ≤ (2 ^ 53 - 1 / 2) * 2 ^ (971 : Int) := by gcongr; norm_num

/-- Settles O41: `fl64` is the rounding to an integer number of last places, ties to even; in those units the other
binary64 values are integers, or lie below the binade. -/
theorem fl64RoundsToNearest : Obligations.Fl64RoundsToNearest := by
  unfold Obligations.Fl64RoundsToNearest
  have hnearest (x y : Rat) (hfl : fl64 x = some y) : IsBinary64 y ∧ ∀ z, IsBinary64 z →
      |y - x| ≤ |z - x| ∧ (z ≠ y → |z - x| = |y - x| → IsEvenBinary64 y) := by
    obtain ⟨p, t, m, hrounded, hlt, rfl⟩ := exists_roundedAt_of_fl64 hfl
    obtain ⟨n, e, hn, hmin, hmax, hnormal, heven, hvalue⟩ := hrounded.exists_significand hlt
    refine ⟨⟨n, e, hn, hmin, hmax, hvalue⟩, fun z hz => ?_⟩
    obtain ⟨hle, htie⟩ := hrounded.nearest_binary64 hz
    exact ⟨hle, fun hne heq => ⟨n, e, hn, hmin, hmax, hnormal, heven (htie hne heq), hvalue⟩⟩
  refine ⟨fun x => fl64_eq_none_iff, hnearest, fun z hz => ?_⟩
  cases hfl : fl64 z with
  | none => exact absurd (fl64_eq_none_iff.1 hfl) (not_le.2 hz.abs_lt)
  | some y =>
    obtain ⟨-, hnear⟩ := hnearest z y hfl
    obtain ⟨hle, -⟩ := hnear z hz
    rw [sub_self, abs_zero, abs_nonpos_iff, sub_eq_zero] at hle
    rw [hle]

end Sys2Proof.Machine
end

section
/-! What RVAL answers: the leading byte is the bound address and the response is a valid frame (43_frame_decode.md R170,
R171, R176). -/

namespace Sys2Proof.Machine

variable {s : State} {r : Request} {rest : List HostMove} {a : Byte}

@[simp] theorem okRbit_inj {v w : Bool} : okRbit v = okRbit w ↔ v = w := by
  simp [okRbit]

/-- A null buffer has no bytes (20_memory.md R42). -/
theorem effLen_of_null (h : r.ibufValid = false) : r.effLen = 0 := by
  simp [Request.effLen, h]

/-- Bound, RVAL delivers whether the response starts with the bound address and is a valid frame (43_frame_decode.md
R170). -/
theorem rval_delivers (h : Ready s r rest) (hb : s.bound = true) :
    Delivers .rval s (okRbit (decide (r.buffer.head? = some s.devAddr) && frameValid r.buffer)) :=
  delivers_of_finish (execRval_bound h hb)

theorem rval_rejects_short (h : Ready s r rest) (hb : s.bound = true) (hshort : r.effLen < 3) :
    Delivers .rval s (okRbit false) := by
  have hdelivers := rval_delivers h hb
  rwa [frameValid_of_short (by simpa using hshort), Bool.and_false] at hdelivers

theorem rval_delivers_of_frame {body : List Byte} {lo hi : Byte} (h : Ready s r rest) (hb : s.bound = true)
    (hbuf : r.buffer = a :: (body ++ [lo, hi])) :
    Delivers .rval s
      (okRbit (a == s.devAddr && (lo == lo8 (crc16 (a :: body)) && hi == hi8 (crc16 (a :: body))))) := by
  have hhead : decide (r.buffer.head? = some s.devAddr) = (a == s.devAddr) := by
    simp [hbuf, Bool.beq_eq_decide_eq]
  have hvalid : frameValid r.buffer = (lo == lo8 (crc16 (a :: body)) && hi == hi8 (crc16 (a :: body))) := by
    rw [hbuf, ← List.cons_append, frameValid_append (List.cons_ne_nil a body)]
  rw [← hhead, ← hvalid]
  exact rval_delivers h hb

/-- Settles O50, by RVAL's answer in an unbound block, and in a bound one for a short and for a framed response. -/
theorem rvalOutcomes : Obligations.RvalOutcomes := by
  unfold Obligations.RvalOutcomes
  refine ⟨decode_encode .rval, fun s r rest hready => ⟨fun hb => exec_unbound hready hb (by simp),
    fun hb hshort => rval_rejects_short hready hb ?_, fun _ _ _ _ => rval_delivers_of_frame hready⟩⟩
  obtain hnull | hshort := hshort
  · rw [effLen_of_null hnull]
    decide
  · exact hshort

/-- Settles O51: another first byte fails RVAL's address test; the spec's example is a valid frame. -/
theorem addressMismatchRejected : Obligations.AddressMismatchRejected := by
  unfold Obligations.AddressMismatchRejected
  refine ⟨fun s r rest a body hready hb hbuf hne => ?_, fvalGives_iff.2 (by decide +kernel)⟩
  have hhead : r.buffer.head? ≠ some s.devAddr := by simpa [hbuf] using hne
  have hdelivers := rval_delivers hready hb
  rwa [decide_eq_false hhead, Bool.false_and] at hdelivers

/-- Settles O52: the second test of RVAL is what FVAL delivers. -/
theorem meaningfulResponseIsRval : Obligations.MeaningfulResponseIsRval := by
  unfold Obligations.MeaningfulResponseIsRval
  intro s r rest hready hb
  rw [(rval_delivers hready hb).iff_eq, (fval_delivers hready).iff_eq, okRbit_inj, okRbit_inj, Bool.and_eq_true,
    decide_eq_true_iff]

end Sys2Proof.Machine
end

section
/-! What RERR answers: a too short response is an error, and else bit 7 of byte 1 says so (43_frame_decode.md R172). -/

namespace Sys2Proof.Machine

variable {s : State} {r : Request} {rest : List HostMove} {b : Byte}

/-- The error mask picks out bit 7 (10_state.md R27). -/
theorem and_errMask_ne_zero (b : Byte) : ((b &&& errMask) != 0#8) = b.getLsbD 7 := by
  have hmask : errMask = BitVec.twoPow 8 7 := by decide
  rw [hmask, BitVec.and_twoPow]
  cases b.getLsbD 7 <;> decide

theorem errMinLen_le_three (m : ErrMinLen) : m.toNat ≤ 3 := by
  cases m <;> decide

theorem errorResponse_of_short {m : ErrMinLen} {f : List Byte} (h : f.length < m.toNat) : errorResponse m f = true :=
  dif_pos h

theorem errorResponse_of_byte {m : ErrMinLen} {f : List Byte} (hlong : m.toNat ≤ f.length) (hb : f[1]? = some b) :
    errorResponse m f = b.getLsbD 7 := by
  obtain ⟨_, rfl⟩ := List.getElem?_eq_some_iff.1 hb
  rw [errorResponse, dif_neg (Nat.not_lt.2 hlong), and_errMask_ne_zero]

theorem rerr_delivers (h : Ready s r rest) (hb : s.bound = true) :
    Delivers .rerr s (okRbit (errorResponse s.params.errMinLen r.buffer)) :=
  delivers_of_finish (execRerr_bound h hb)

theorem rerr_delivers_of_byte (h : Ready s r rest) (hb : s.bound = true)
    (hlong : s.params.errMinLen.toNat ≤ r.effLen) (hbyte : r.buffer[1]? = some b) :
    Delivers .rerr s (okRbit (b.getLsbD 7)) :=
  errorResponse_of_byte (r.buffer_length.symm ▸ hlong) hbyte ▸ rerr_delivers h hb

/-- Settles O53, by RERR's answer in an unbound block, and in a bound one for a short and for a long response. -/
theorem rerrOutcomes : Obligations.RerrOutcomes := by
  unfold Obligations.RerrOutcomes
  refine ⟨decode_encode .rerr, fun s r rest hready => ⟨fun hb => exec_unbound hready hb (by simp),
    fun hb hshort => ?_, fun _ => rerr_delivers_of_byte hready⟩⟩
  exact errorResponse_of_short (r.buffer_length.symm ▸ hshort) ▸ rerr_delivers hready hb

end Sys2Proof.Machine
end

section
/-! What RPARSEV answers: the sentinel under 8 bytes, and else the reading of bytes 4 and 5 (43_frame_decode.md R173,
R174). -/

namespace Sys2Proof.Machine

variable {s : State} {r : Request} {rest : List HostMove}

@[simp] theorem okRvolt_inj {v w : Rat} : okRvolt v = okRvolt w ↔ v = w := by
  simp [okRvolt]

/-- The word of a low and a high byte, as a number (00_scope.md R9). -/
theorem word16_toNat (lo hi : Byte) : (word16 lo hi).toNat = lo.toNat + 256 * hi.toNat := by
  have hlow : (lo.setWidth 16).toNat = lo.toNat := BitVec.toNat_setWidth_of_le (by decide)
  have hhigh : (hi.setWidth 16 <<< 8).toNat = hi.toNat <<< 8 := by
    rw [BitVec.toNat_shiftLeft, BitVec.toNat_setWidth_of_le (by decide), Nat.shiftLeft_eq]
    exact Nat.mod_eq_of_lt (by omega)
  rw [word16, BitVec.toNat_or, hlow, hhigh, Nat.or_comm, ← Nat.shiftLeft_add_eq_or_of_lt lo.isLt, Nat.shiftLeft_eq]
  omega

/-- A reading is the exact tenth of its code (43_frame_decode.md R174). -/
theorem readingValue_eq (raw : Word) : readingValue raw = (raw.toNat : Rat) / 10 :=
  Rat.mkRat_eq_div _ _

theorem readingValue_nonneg (raw : Word) : 0 ≤ readingValue raw := by
  rw [readingValue_eq]
  positivity

theorem voltageReading_of_short {sentinel : Rat} {f : List Byte} (h : f.length < 8) :
    voltageReading sentinel f = sentinel := dif_pos h

/-- Under a negative sentinel, a negative reading is the sentinel's (43_frame_decode.md R173). -/
theorem voltageReading_neg_iff {sentinel : Rat} {f : List Byte} (hneg : sentinel < 0) :
    voltageReading sentinel f < 0 ↔ f.length < 8 := by
  by_cases hshort : f.length < 8
  · rw [voltageReading_of_short hshort]
    exact iff_of_true hneg hshort
  · rw [voltageReading, dif_neg hshort]
    exact iff_of_false (readingValue_nonneg _).not_gt hshort

theorem rparsev_delivers_reading (h : Ready s r rest) (hb : s.bound = true) :
    Delivers .rparsev s (okRvolt (voltageReading s.params.parseSentinel r.buffer)) :=
  delivers_of_finish (execRparsev_bound h hb)

/-- Settles O54, by RPARSEV's answer in an unbound block, and in a bound one for a short and for a long response; the
invariant makes the sentinel negative. -/
theorem rparsevOutcomes : Obligations.RparsevOutcomes := by
  unfold Obligations.RparsevOutcomes
  refine ⟨decode_encode .rparsev, fun s r rest hready => ⟨fun hb => exec_unbound hready hb (by simp),
    fun hb hshort => ?_, fun lo hi hb hlong hlo hhi => ?_, fun v hinv hb hdelivers => ?_⟩⟩
  · have hdelivers := rparsev_delivers_reading hready hb
    rwa [voltageReading_of_short (by simpa using hshort)] at hdelivers
  · rw [← word16_toNat, ← readingValue_eq]
    exact rparsev_delivers hready hb hlong hlo hhi
  · obtain rfl := okRvolt_inj.1 (delivers_unique (rparsev_delivers_reading hready hb) hdelivers)
    obtain ⟨-, hneg⟩ := hinv.params_wf
    rw [voltageReading_neg_iff hneg, r.buffer_length]

theorem trunc_natCast (n : Nat) : trunc (n : Rat) = n := by
  rw [trunc_of_nonneg n.cast_nonneg, Int.floor_natCast]

/-- Settles O55: a code has 16 bits, and ten times its tenth is the code itself, which rounds to itself. -/
theorem readingIsExactTenth : Obligations.ReadingIsExactTenth := by
  unfold Obligations.ReadingIsExactTenth
  refine fun raw => ⟨readingValue_eq raw, readingValue_nonneg raw, ?_, ?_⟩
  · have hcode : (raw.toNat : Rat) ≤ 65535 := mod_cast Nat.le_of_lt_succ raw.isLt
    rw [readingValue_eq]
    linarith
  · have hten : 10 * readingValue raw = raw.toNat := by
      rw [readingValue_eq]
      ring
    rw [voltageCode, hten, trunc_natCast]

/-- Settles O56: RERR's answer names one bit of the response and RPARSEV's two bytes, and a payload after the bound
address, with its checksum, is a valid frame whatever it is. -/
theorem decoderChecksNothingElse : Obligations.DecoderChecksNothingElse := by
  unfold Obligations.DecoderChecksNothingElse
  refine ⟨fun s r rest t u rest' b c hs ht hsb htb hr hu hrb huc hbit => ?_,
    fun s r rest t u rest' hs ht hsb htb hr hu hlo hhi => ?_, fun s r rest payload hready hb hbuf => ?_⟩
  · exact ⟨_, rerr_delivers_of_byte hs hsb ((errMinLen_le_three _).trans hr) hrb,
      hbit ▸ rerr_delivers_of_byte ht htb ((errMinLen_le_three _).trans hu) huc⟩
  · have hlen : 8 ≤ r.buffer.length := r.buffer_length.symm ▸ hr
    have hr4 : r.buffer[4]? = some r.buffer[4] := List.getElem?_eq_getElem _
    have hr5 : r.buffer[5]? = some r.buffer[5] := List.getElem?_eq_getElem _
    exact ⟨_, rparsev_delivers hs hsb hr hr4 hr5, rparsev_delivers ht htb hu (hlo ▸ hr4) (hhi ▸ hr5)⟩
  · exact rval_accepts hready hb (by rw [hbuf]; rfl) (hbuf ▸ frameValid_frame (List.cons_ne_nil s.devAddr payload))

end Sys2Proof.Machine
end

section
/-! The halted block (60_exceptions.md R202). -/

namespace Sys2Proof.Machine

variable {s t : State}

theorem step_halted (hf : s.fault ≠ 0#4) : step s = stepHalted s := if_pos hf

/-- A halted block to which no reset is presented is stuck. -/
theorem stepHalted_of_no_reset (hreset : HostMove.reset ∉ s.host) : stepHalted s = .fault .halted := by
  rw [stepHalted, afterReset_eq_none.2 hreset]

/-- Settles O14: the prologue stops every operation, and the one step of a halted block is its reset. -/
theorem haltedBlockHasNoStep : Obligations.HaltedBlockHasNoStep := by
  unfold Obligations.HaltedBlockHasNoStep
  refine fun s hf => ⟨fun i => exec_halted i hf,
    fun hreset => (step_halted hf).trans (stepHalted_of_no_reset hreset), fun t hstep => ?_⟩
  obtain ⟨rest, hrest, rfl⟩ := stepHalted_next ((step_halted hf).symm.trans hstep)
  obtain ⟨ops, -, hhost⟩ := afterReset_eq_some.1 hrest
  exact ⟨by simp [hhost], resetBlock_fault rest s, resetBlock_bound rest s⟩

end Sys2Proof.Machine
end

section
/-! The two ends of a presented request: the fault entry, which writes `FAULT` and `FAULT_CMD` alone, or a delivery,
which keeps both (60_exceptions.md R201, R205). -/

namespace Sys2Proof.Machine

variable {s t : State} {r : Request} {rest : List HostMove} {i : Instr}

/-- What a block that was not halted holds after a delivery: no fault, `FAULT_CMD` as it was, the later moves, and a
`STATUS` to read (10_state.md R22; 60_exceptions.md R205). -/
structure Delivered (s t : State) (rest : List HostMove) : Prop where
  fault : t.fault = 0#4
  faultCmd : t.faultCmd = s.faultCmd
  host : t.host = rest
  status : ∃ st, readStatus t = .ok st

/-- An operation on a presented request ends in the fault entry or in a delivery. -/
theorem exec_ready_ends (h : Ready s r rest) (hexec : exec i s = .next t) :
    (∃ code, t = enterFault code r s) ∨ Delivered s t rest := by
  obtain ⟨hf, hhost⟩ := h
  have hstatus (ht : t.fault = 0#4) : ∃ st, readStatus t = .ok st :=
    ((exactlyNamedFieldsDelivered s r rest i t ⟨hf, hhost⟩ hexec).1 ht).1
  obtain ⟨-, r', rest', hhost', houtcome⟩ := exec_next hexec
  obtain ⟨rfl, rfl⟩ : r = r' ∧ rest = rest' := by simpa using hhost.symm.trans hhost'
  obtain ⟨code, rfl⟩ | ⟨a, -, -, -, -, rfl⟩ | ⟨res, rfl⟩ := houtcome
  · exact .inl ⟨code, rfl⟩
  · exact .inr ⟨hf, rfl, by simp [hhost], hstatus hf⟩
  · exact .inr ⟨hf, rfl, by simp [hhost], hstatus hf⟩

/-- A step on a presented request ends in the fault entry or in a delivery; a word that the decoder rejects ends in the
fault entry. -/
theorem step_ready_ends (h : Ready s r rest) (hstep : step s = .next t) :
    (∃ code, t = enterFault code r s) ∨ Delivered s t rest := by
  cases hdecode : decode r.cmd with
  | error e =>
    rw [step_ready_rejected h hdecode, illegalCommand_ready h] at hstep
    injection hstep with ht
    exact .inl ⟨_, ht.symm⟩
  | ok i => exact exec_ready_ends h ((step_ready h hdecode).symm.trans hstep)

/-- Settles O16: a step that ends with a fault has taken the fault entry, as a delivery raises none. -/
theorem faultEntryIsPrecise : Obligations.FaultEntryIsPrecise := by
  unfold Obligations.FaultEntryIsPrecise
  intro s r rest t hready hstep hfault
  obtain ⟨code, rfl⟩ | hdelivered := step_ready_ends hready hstep
  · rfl
  · exact absurd hdelivered.fault hfault

end Sys2Proof.Machine
end

section
/-! Which fault a request raises: each operation's own checks, in the order of its rule, are the causes of
60_exceptions.md R200 in the order of R203. -/

namespace Sys2Proof.Machine

variable {s : State} {r : Request} {rest : List HostMove} {i : Instr}

/-- The fault that an operation's own rule raises on the request `r`; 0 is no fault (40_config.md R100, R102; 41_crc.md
R114, R115; 42_frame_encode.md R142; 30_encoding.md R66). -/
def operationFault (bound : Bool) (p : Params) (r : Request) : Instr → BitVec 4
  | .crc => if r.effLen < r.len then 4#4 else 0#4
  | .crcapp => if r.effLen < r.len then 4#4 else if r.effLen < r.len + 2 then 5#4 else 0#4
  | .fval => 0#4
  | .bind _ => if bound then 3#4 else 0#4
  | .bsetv => if bound = false then 2#4 else if encodedVoltage p r.vin = none then 6#4 else 0#4
  | .benout _ | .brdv | .rval | .rerr | .rparsev => if bound = false then 2#4 else 0#4
  | .reservedA _ | .reservedB _ | .reservedC _ | .reservedD _ | .reservedE _ | .reservedF _ => 1#4

/-- Past the binding check, every protocol operation but BSETV delivers. -/
theorem exec_bound_delivers (h : Ready s r rest) (hb : s.bound = true)
    (hi : (∃ e, i = .benout e) ∨ i = .brdv ∨ i = .rval ∨ i = .rerr ∨ i = .rparsev) :
    ∃ res, exec i s = .next (finish res s) := by
  obtain ⟨e, rfl⟩ | rfl | rfl | rfl | rfl := hi
  · exact ⟨_, execBenout_bound e h hb⟩
  · exact ⟨_, execBrdv_bound h hb⟩
  · exact ⟨_, execRval_bound h hb⟩
  · exact ⟨_, execRerr_bound h hb⟩
  · exact ⟨_, execRparsev_bound h hb⟩

/-- Every operation has an answer to a presented request, and its fault is the one its rule names. -/
theorem exec_ready_fault (i : Instr) (h : Ready s r rest) :
    ∃ t, exec i s = .next t ∧ t.fault = operationFault s.bound s.params r i := by
  have hf : s.fault = 0#4 := h.1
  cases i with
  | crc =>
    refine ⟨_, execCrc_ready h, ?_⟩
    simp only [operationFault]
    split_ifs
    exacts [rfl, hf]
  | crcapp =>
    refine ⟨_, execCrcapp_ready h, ?_⟩
    simp only [operationFault]
    split_ifs
    exacts [rfl, rfl, hf]
  | fval => exact ⟨_, execFval_ready h, hf⟩
  | bind a =>
    refine ⟨_, execBind_ready a h, ?_⟩
    simp only [operationFault]
    split_ifs
    exacts [rfl, hf, hf]
  | bsetv =>
    cases hb : s.bound with
    | false => exact ⟨_, exec_unbound h hb (by simp), rfl⟩
    | true =>
      refine ⟨_, execBsetv_bound h hb, ?_⟩
      cases hq : encodedVoltage s.params r.vin with
      | none => simp [operationFault, hq, faultValue]
      | some q => simp [operationFault, hq, hf]
  | benout _ | brdv | rval | rerr | rparsev =>
    cases hb : s.bound with
    | false => exact ⟨_, exec_unbound h hb (by simp), rfl⟩
    | true =>
      refine (exec_bound_delivers h hb ?_).elim fun res hexec => ⟨_, hexec, hf⟩
      simp
  | reservedA _ | reservedB _ | reservedC _ | reservedD _ | reservedE _ | reservedF _ =>
    exact ⟨_, illegalCommand_ready h, rfl⟩

/-- The table on a legal command word: of its causes only those of the word's operation can hold, and they stand in the
order in which the operation checks them (60_exceptions.md R203). -/
theorem firstFault_of_decode (bound : Bool) (p : Params) (hdecode : decode r.cmd = .ok i) (hwf : i.wf = true) :
    firstFault bound p r = operationFault bound p r i := by
  have hlegal : ¬ IllegalWord r.cmd := decode_wf_iff.1 ⟨i, hdecode, hwf⟩
  have hop : r.cmd.extractLsb' 0 4 = opField (encode i) := by rw [encode_of_decode hdecode]; rfl
  unfold firstFault
  rw [if_neg hlegal, hop]
  cases i with
  | crc | crcapp | fval | bind _ | bsetv | benout _ | brdv | rval | rerr | rparsev =>
    simp [encode, needsBound, operationFault]
  | reservedA _ | reservedB _ | reservedC _ | reservedD _ | reservedE _ | reservedF _ => cases hwf

/-- Every presented request has a step, and its fault is the first cause of the table. -/
theorem step_ready_fault (h : Ready s r rest) :
    ∃ t, step s = .next t ∧ t.fault = firstFault s.bound s.params r := by
  by_cases hillegal : IllegalWord r.cmd
  · exact ⟨_, illegalWordFaults s r rest h hillegal, (if_pos hillegal).symm⟩
  · obtain ⟨i, hdecode, hwf⟩ := decode_wf_iff.2 hillegal
    obtain ⟨t, hexec, hfault⟩ := exec_ready_fault i h
    exact ⟨t, (step_ready h hdecode).trans hexec, hfault.trans (firstFault_of_decode _ _ hdecode hwf).symm⟩

/-- Settles O17: the step exists with the table's fault, the entry of a fault is precise, and a step without one has
delivered. -/
theorem faultCausesAndPriority : Obligations.FaultCausesAndPriority := by
  unfold Obligations.FaultCausesAndPriority
  refine ⟨fun s i hf => exec_halted i hf, fun s r rest hready => ?_⟩
  obtain ⟨t, hstep, hfault⟩ := step_ready_fault hready
  refine ⟨t, hstep, hfault, faultEntryIsPrecise s r rest t hready hstep, fun hnone => ?_⟩
  obtain ⟨code, rfl⟩ | hdelivered := step_ready_ends hready hstep
  · exact absurd hnone (faultValue_ne_none code)
  · exact ⟨hdelivered.faultCmd, hdelivered.host, hdelivered.status⟩

end Sys2Proof.Machine
end

section
/-! The reset as a step: what it leaves, and that no other step unbinds the block or changes a raised fault
(70_reset_and_hazards.md R230; 10_state.md R29, R30). -/

namespace Sys2Proof.Machine

variable {s t : State} {rest : List HostMove}

/-- A reset at the head of the host's moves is performed, in a halted block or not (70_reset_and_hazards.md R230). -/
theorem step_presented_reset (hhost : s.host = .reset :: rest) : step s = .next (resetBlock s rest) := by
  by_cases hf : s.fault = 0#4
  · simp [step, faultNone, hf, hhost]
  · simp [step_halted hf, stepHalted, hhost, afterReset]

/-- Settles O12, by the step of a presented reset and the fields of the state it leaves. -/
theorem resetEventResets : Obligations.ResetEventResets := by
  unfold Obligations.ResetEventResets
  exact fun s rest hhost => ⟨resetBlock s rest, step_presented_reset hhost, resetBlock_bound rest s,
    resetBlock_fault rest s, resetBlock_results rest s, resetBlock_params rest s, resetBlock_host rest s⟩

/-- A step performs the first reset among the host's moves, which in a block that is not halted is the oldest move; or
the block is not halted and the oldest move is no reset (log 3). -/
theorem step_resets_or_unhalted (hstep : step s = .next t) :
    (∃ ops rest, s.host = ops ++ .reset :: rest ∧ (∀ m ∈ ops, m ≠ HostMove.reset) ∧ (s.fault = 0#4 → ops = []) ∧
      t = resetBlock s rest) ∨
    (s.fault = 0#4 ∧ s.host.head? ≠ some .reset) := by
  obtain ⟨rest, hhalted, hrest, rfl⟩ | ⟨hf, hhost, -⟩ | ⟨rest, -, hhost, rfl⟩ | ⟨_, _, _, hf, hhost, -, -⟩ |
    ⟨_, _, _, hf, hhost, -, -⟩ := step_next hstep
  · obtain ⟨ops, hops, hhost⟩ := afterReset_eq_some.1 hrest
    exact .inl ⟨ops, rest, hhost, hops, fun hf => absurd hf hhalted, rfl⟩
  · exact .inr ⟨hf, by simp [hhost]⟩
  · exact .inl ⟨[], rest, hhost, nofun, fun _ => rfl, rfl⟩
  · exact .inr ⟨hf, by simp [hhost]⟩
  · exact .inr ⟨hf, by simp [hhost]⟩

/-- Settles O13: a step that is no reset starts with no fault to change, and keeps the binding. -/
theorem onlyResetUnbindsOrClearsFault : Obligations.OnlyResetUnbindsOrClearsFault := by
  unfold Obligations.OnlyResetUnbindsOrClearsFault
  intro s t hstep hchange
  obtain ⟨ops, rest, hhost, hops, hunhalted, rfl⟩ | ⟨hf, hhead⟩ := step_resets_or_unhalted hstep
  · have halone : step { s with host := .reset :: rest } = .next (resetBlock s rest) := step_presented_reset rfl
    exact ⟨ops, rest, hhost, hops, hunhalted, halone, resetBlock_host rest s, resetBlock_bound rest s,
      resetBlock_fault rest s⟩
  · obtain ⟨hb, hunbound⟩ | ⟨hhalted, -⟩ := hchange
    · have hbound : t.bound = true := (step_keeps_binding hf hhead hb hstep).1
      exact absurd (hunbound.symm.trans hbound) Bool.false_ne_true
    · exact absurd hf hhalted

end Sys2Proof.Machine
end

section
/-! The host that keeps its duties (70_reset_and_hazards.md R235; 60_exceptions.md R215). -/

namespace Sys2Proof.Machine

variable {s t : State} {m : HostMove} {rest : List HostMove}

/-- A bound block that is not halted, with a host that keeps its duties in every move still to come
(70_reset_and_hazards.md R235): what each step of `DutiesKeptNeverHalt` keeps. -/
structure ServesDutifulHost (s : State) : Prop where
  fault : s.fault = 0#4
  bound : s.bound = true
  duties : ∀ m ∈ s.host, KeepsDuties s.params m

/-- The move of a dutiful host has a step, which raises no fault, performs that move alone, and keeps the binding: the
block serves the host's later moves as before. -/
theorem ServesDutifulHost.step (hs : ServesDutifulHost s) (hhost : s.host = m :: rest) :
    ∃ t, step s = .next t ∧ ServesDutifulHost t ∧ t.devAddr = s.devAddr ∧ t.host = rest := by
  obtain ⟨r, rfl, hnone⟩ := hs.duties m (by simp [hhost])
  have hready : Ready s r rest := ⟨hs.fault, hhost⟩
  obtain ⟨t, hstep, hfault⟩ := step_ready_fault hready
  rw [hs.bound, hnone] at hfault
  obtain ⟨code, rfl⟩ | hdelivered := step_ready_ends hready hstep
  · exact absurd hfault (faultValue_ne_none code)
  obtain ⟨hbound, haddr⟩ := step_keeps_binding hs.fault (by simp [hhost]) hs.bound hstep
  refine ⟨t, hstep, ⟨hfault, hbound, fun m hm => ?_⟩, haddr, hdelivered.host⟩
  rw [hdelivered.host] at hm
  rw [step_keeps_params hstep]
  exact hs.duties m (by simp [hhost, hm])

/-- A run goes on from the state its first step answers. -/
theorem run_succ_of_step (k : Nat) (hstep : step s = .next t) : core.run (k + 1) s = core.run k t := by
  have hcore : core.step s = .next t := hstep
  simp only [Host.Core.run, hcore]

/-- As many steps as a dutiful host has moves perform those moves, and the block stays as each step leaves it. -/
theorem ServesDutifulHost.run {k : Nat} (hs : ServesDutifulHost s) (hk : k ≤ s.host.length) :
    ∃ t, core.run k s = .next t ∧ ServesDutifulHost t ∧ t.devAddr = s.devAddr ∧ t.host = s.host.drop k := by
  induction k generalizing s with
  | zero => exact ⟨s, rfl, hs, rfl, rfl⟩
  | succ k ih =>
    obtain ⟨m, rest, hhost⟩ := List.exists_cons_of_length_pos (Nat.zero_lt_of_lt hk)
    obtain ⟨u, hstep, hu, haddr, rfl⟩ := hs.step hhost
    have hlength : k ≤ u.host.length := by simpa [hhost] using hk
    obtain ⟨t, hrun, ht, haddr', hrest⟩ := ih hu hlength
    exact ⟨t, (run_succ_of_step k hstep).trans hrun, ht, haddr'.trans haddr, by rw [hrest, hhost, List.drop_succ_cons]⟩

/-- Settles O18, by induction on the number of steps: each keeps what the next one needs. -/
theorem dutiesKeptNeverHalt : Obligations.DutiesKeptNeverHalt := by
  unfold Obligations.DutiesKeptNeverHalt
  intro s k hfault hbound hduties hk
  obtain ⟨t, hrun, ht, haddr, hhost⟩ := ServesDutifulHost.run ⟨hfault, hbound, hduties⟩ hk
  exact ⟨t, hrun, ⟨t, hrun, ht.fault⟩, ht.bound, haddr, hhost⟩

end Sys2Proof.Machine
end

section
/-! The moves that change nothing: operations issued to a halted block ahead of a reset, and no move at all
(60_exceptions.md R202, R206; 70_reset_and_hazards.md R230). -/

namespace Sys2Proof.Machine

variable {s : State} {ops rest : List HostMove}

/-- A halted block passes over the operations issued to it and performs the first reset behind them (log 3). -/
theorem step_halted_first_reset (hf : s.fault ≠ 0#4) (hops : ∀ m ∈ ops, m ≠ HostMove.reset)
    (hhost : s.host = ops ++ .reset :: rest) : step s = .next (resetBlock s rest) := by
  have hafter : afterReset s.host = some rest := afterReset_eq_some.2 ⟨ops, hops, hhost⟩
  rw [step_halted hf, stepHalted, hafter]

/-- Settles O15: the reset reads none of the moves ahead of it, so it leaves the same state when it is presented
alone. -/
theorem resetBehindIssuedOperationsIsReached : Obligations.ResetBehindIssuedOperationsIsReached := by
  unfold Obligations.ResetBehindIssuedOperationsIsReached
  intro s ops rest hf hops hhost
  have halone : step { s with host := .reset :: rest } = .next (resetBlock s rest) := step_presented_reset rfl
  exact ⟨resetBlock s rest, step_halted_first_reset hf hops hhost, halone, resetBlock_host rest s⟩

/-- Settles O8: past the halt check, the step of an empty list of moves answers the state itself (log 2). -/
theorem idleStepChangesNothing : Obligations.IdleStepChangesNothing := by
  unfold Obligations.IdleStepChangesNothing
  intro s hf hhost
  simp [step, faultNone, hf, hhost]

end Sys2Proof.Machine
end
